-- ==== Sys2Proof/Word.lean ====
section
/-! DEFINITION. The word types of FRC (spec 00 R8, R9). Every value is unsigned. -/

namespace Sys2Proof

/-- A frame byte, a buffer byte, RX DATA (00 R9). -/
abbrev Byte := BitVec 8

/-- A 16-bit length, index or host offset (00 R8). -/
abbrev Half := BitVec 16

/-- A host data word: RDATA, WDATA, a CMD32 word (00 R8). -/
abbrev Word := BitVec 32

/-- A frame byte counter, wide enough for 65540 (00 R8). -/
abbrev Count := BitVec 17

end Sys2Proof
end

