-- ==== Sys2Proof/Config.lean ====
section
/-! DEFINITION. What an FRC instance fixes (spec 00 R8, 10 R33) and the free values.

The instance parameters are plain data, carried in `Machine.State.params`, which no event changes (log 2).
So a statement about every state is a statement about every instance. -/

namespace Sys2Proof

/-- The three byte memories (10 R30, R31, R32). -/
inductive Buffer where
  | ebuf
  | pbuf
  | obuf
  deriving DecidableEq, Repr

/-- CHK_POLICY (43 R105, R108): the default PLACEHOLDER, or another pair of functions, given by its values as plain data
(log 4). CHK_GEN of a payload is its byte in `gen`, or `default` where `gen` lists none. CHK_ACCEPT refuses the pairs
in `reject`, but never the generated byte (43 R110). Payloads are finitely many, so every pair of functions that
meets R110 is such data. -/
inductive Policy where
  | placeholder
  | other (default : Byte) (gen reject : List (List Byte × Byte))
  deriving DecidableEq, Repr

/-- The parameters of an FRC instance (00 R8). OBUF_SIZE is 0 to 65535, so 16 bits hold exactly its range. -/
structure Params where
  /-- OBUF_SIZE (10 R32). -/
  obufSize : Half
  /-- CHECK_PLACEHOLDER (43 R109). -/
  checkPlaceholder : Byte
  /-- CHK_POLICY (43 R105). -/
  policy : Policy
  deriving DecidableEq, Repr

/-- CHECK_PLACEHOLDER's value, which the spec leaves OPEN (43 R109; 92 D16; log 3). Free value. -/
opaque Config.checkPlaceholder : Byte

/-- The unspecified byte that a buffer holds at an offset nothing has written since the reset with this number
(70 R130; 93 S1; log 5). Free value. -/
opaque Config.unwritten : Buffer → Nat → Nat → Byte

/-- The instance at the spec's defaults (00 R8): OBUF_SIZE 65535, PLACEHOLDER, CHECK_PLACEHOLDER open. -/
def Params.standard : Params where
  obufSize := 65535
  checkPlaceholder := Config.checkPlaceholder
  policy := .placeholder

end Sys2Proof
end

