-- ==== Sys2Proof/Machine/State.lean ====
section
/-! DEFINITION. FRC's state (spec 10, 20 R37, R50), the reasons a step can stop, and the state after reset. -/

namespace Sys2Proof.Machine

/-- `dstate` (10 R26): the field the decoder expects next. -/
inductive DState where
  | dIdle
  | dHdr
  | dLenhi
  | dLenlo
  | dPay
  | dTrl
  | dChk
  deriving DecidableEq, Repr

/-- `estate` (10 R27): the frame field of the byte the encoder offers. -/
inductive EState where
  | eIdle
  | eStart
  | eLenhi
  | eLenlo
  | ePay
  | eEnd
  | eChk
  deriving DecidableEq, Repr

/-- The status codes 0 to 12 (60 R114). Codes 13 to 15 are never produced, so they have no name (log 11). -/
inductive StatusCode where
  | ok
  | malformedHeader
  | malformedLength
  | malformedPayload
  | malformedTrailer
  | missingChecksum
  | bufferTooSmall
  | readFailure
  | readTimeout
  | incompleteWrite
  | writeFailure
  | writeTimeout
  | checksumMismatch
  deriving DecidableEq, Repr

/-- The bits of ERRF (10 R25). -/
inductive ErrBit where
  | encBusyCmd
  | decBusyCmd
  | ebufWrBusy
  | rsvdCmd
  | badAccess
  deriving DecidableEq, Repr

/-- The defined indexes of the CSR space (10 R15). -/
inductive Csr where
  | cmd
  | encLen
  | encStatus
  | encCount
  | decCap
  | decStatus
  | decLen
  | decCount
  | decChk
  | errf
  deriving DecidableEq, Repr

/-- Who causes the next event (20 R50; log 1). -/
inductive Agent where
  | host
  | rxSource
  | txSink
  | resetLine
  deriving DecidableEq, Repr

/-- A byte memory: the bytes written since the last reset, by offset, offsets strictly rising. -/
abbrev Memory := List Host.Cell

/-- The decoder's variables (10 R26). -/
structure Decoder where
  /-- `dstate`. -/
  state : DState
  /-- `d_cap`. -/
  cap : Half
  /-- `d_lenhi`. -/
  lenhi : Byte
  /-- `d_len`. -/
  len : Half
  /-- `d_len_valid`. -/
  lenValid : Bool
  /-- `d_idx`. -/
  idx : Half
  /-- `d_count`. -/
  count : Count
  /-- `d_chk`. -/
  chk : Byte
  /-- `d_chk_valid`. -/
  chkValid : Bool
  /-- `d_done`. -/
  done : Bool
  /-- `d_code`. -/
  code : StatusCode
  deriving DecidableEq, Repr

/-- The encoder's variables (10 R27). -/
structure Encoder where
  /-- `estate`. -/
  state : EState
  /-- `e_len`. -/
  len : Half
  /-- `e_idx`. -/
  idx : Half
  /-- `e_chk`. -/
  chk : Byte
  /-- `e_count`. -/
  count : Count
  /-- `e_done`. -/
  done : Bool
  /-- `e_code`. -/
  code : StatusCode
  deriving DecidableEq, Repr

/-- The agents around FRC, as far as FRC meets them (10 R35, 20 R37, R50; logs 1 and 7). -/
structure Env where
  /-- The order in which agents act next. -/
  schedule : List Agent
  /-- The host's requests not yet issued, HBR64 words, in its order. -/
  hostRequests : List (BitVec 64)
  /-- The RX source's symbols not yet taken, RXSYM10 words, in its order. -/
  rxSymbols : List (BitVec 10)
  /-- The TX sink's responses not yet given, TXRSP2 words, in its order. -/
  txResponses : List (BitVec 2)
  /-- The RDATA values returned to the host so far, the oldest first. -/
  responses : List Word
  /-- The bytes the TX sink has accepted so far, the oldest first. -/
  wire : List Byte
  deriving DecidableEq, Repr

/-- FRC with its environment. -/
structure State where
  /-- The instance parameters (00 R8). No event changes them (10 R33). -/
  params : Params
  /-- ENC_LEN.LEN (10 R17). -/
  encLen : Half
  /-- DEC_CAP.CAP (10 R20). -/
  decCap : Half
  /-- ERRF (10 R25). -/
  errf : BitVec 5
  /-- The decoder's variables (10 R26). -/
  dec : Decoder
  /-- The encoder's variables (10 R27). -/
  enc : Encoder
  /-- EBUF (10 R30). -/
  ebuf : Memory
  /-- PBUF (10 R31). -/
  pbuf : Memory
  /-- OBUF (10 R32). -/
  obuf : Memory
  /-- How many RESET events there have been: the model's own, an argument of `Config.unwritten` (log 5). -/
  resets : Nat
  /-- The environment at the ports (10 R35). -/
  env : Env
  deriving DecidableEq, Repr

/-- Why FRC's model stops. Each names a byte the spec says does not exist. No run reaches one: `Inv` excludes
them. Safe: the model stops where the spec gives no effect (log 10). -/
inductive Fault where
  /-- TX_ACCEPT in E_PAY with `e_idx` past EBUF's last byte (10 R30). Raised by `execTxAccept`. Safe. -/
  | ebufOffset (offset : Nat)
  /-- RX_BYTE in D_PAY with `d_idx` past PBUF's last byte (10 R31). Raised by `execRxByte`. Safe. -/
  | pbufOffset (offset : Nat)
  /-- The final copy of a decode would pass OBUF's last byte (10 R32). Raised by `execRxByte`. Safe. -/
  | obufOffset (offset : Nat)
  deriving DecidableEq, Repr

/-- Why an instruction has no meaning in the model. -/
inductive Refusal where
  /-- The instruction is not modelled. Raised by an arm of `exec` only. Safe. No arm of this model raises it. -/
  | notModelled (mnemonic : String)
  deriving DecidableEq, Repr

/-- The decoder after reset (10 R26, 70 R129). -/
def Decoder.atReset : Decoder where
  state := .dIdle
  cap := 0
  lenhi := 0
  len := 0
  lenValid := false
  idx := 0
  count := 0
  chk := 0
  chkValid := false
  done := false
  code := .ok

/-- The encoder after reset (10 R27, 70 R129). -/
def Encoder.atReset : Encoder where
  state := .eIdle
  len := 0
  idx := 0
  chk := 0
  count := 0
  done := false
  code := .ok

/-- An environment that does nothing and has seen nothing (log 1). -/
def Env.quiet : Env where
  schedule := []
  hostRequests := []
  rxSymbols := []
  txResponses := []
  responses := []
  wire := []

/-- The machine right after reset, for an instance with these parameters (10 R36, 70 R129, R130). -/
def State.resetOf (p : Params) : State where
  params := p
  encLen := 0
  decCap := p.obufSize
  errf := 0
  dec := Decoder.atReset
  enc := Encoder.atReset
  ebuf := []
  pbuf := []
  obuf := []
  resets := 0
  env := Env.quiet

/-- The machine right after reset, at the spec's default parameters (00 R8). -/
def State.reset : State := State.resetOf Params.standard

end Sys2Proof.Machine
end

