-- ==== Sys2Proof/Machine/Checksum.lean ====
section
/-! DEFINITION. The checksum unit: CHK_GEN and CHK_ACCEPT of the instance's policy (spec 43), pure functions. -/

namespace Sys2Proof.Machine

/-- The byte a table gives a payload, or the default (log 4). -/
def tableByte (default : Byte) : List (List Byte × Byte) → List Byte → Byte
  | [], _ => default
  | (p, b) :: rest, payload => if payload = p then b else tableByte default rest payload

/-- CHK_GEN (43 R105). PLACEHOLDER gives the constant CHECK_PLACEHOLDER (43 R108). -/
def chkGen (p : Params) (payload : List Byte) : Byte :=
  match p.policy with
  | .placeholder => p.checkPlaceholder
  | .other default gen _ => tableByte default gen payload

/-- CHK_ACCEPT (43 R105). PLACEHOLDER accepts every byte (43 R108). Any other policy accepts the byte CHK_GEN gives,
as 43 R110 demands, and else what its table does not refuse (log 4). -/
def chkAccept (p : Params) (payload : List Byte) (c : Byte) : Bool :=
  match p.policy with
  | .placeholder => true
  | .other default gen reject => decide (c = tableByte default gen payload) || decide ((payload, c) ∉ reject)

/-- The frame of a payload (30 R56): `[0x02, len div 256, len mod 256] ++ P ++ [0x03, CHK_GEN(P)]`. -/
def frame (p : Params) (payload : List Byte) : List Byte :=
  [0x02, BitVec.ofNat 8 (payload.length / 256), BitVec.ofNat 8 (payload.length % 256)] ++ payload ++
    [0x03, chkGen p payload]

end Sys2Proof.Machine
end

