-- ==== Sys2Proof/Machine/Flags.lean ====
section
/-! DEFINITION. The status bits: ERRF (spec 10 R25), the status codes' numbers (60 R114) and the STATUS words (10 R18,
R21). FRC has no condition codes (10 R29). -/

namespace Sys2Proof.Machine

/-- The bit of ERRF (10 R25): ENC_BUSY_CMD [0], DEC_BUSY_CMD [1], EBUF_WR_BUSY [2], RSVD_CMD [3], BAD_ACCESS [4]. -/
def ErrBit.mask : ErrBit → BitVec 5
  | .encBusyCmd => 0x01
  | .decBusyCmd => 0x02
  | .ebufWrBusy => 0x04
  | .rsvdCmd => 0x08
  | .badAccess => 0x10

/-- `ERRF.<bit> <- 1`. -/
def State.setErr (s : State) (e : ErrBit) : State := { s with errf := s.errf ||| e.mask }

/-- `ERRF <- ERRF & ~WDATA[4:0]` (10 R25, 40 R71). -/
def State.clearErr (s : State) (wdata : Word) : State := { s with errf := s.errf &&& ~~~(wdata.setWidth 5) }

/-- The number of a status code, CODE [7:4] of a STATUS register (60 R114). -/
def StatusCode.bits : StatusCode → BitVec 4
  | .ok => 0
  | .malformedHeader => 1
  | .malformedLength => 2
  | .malformedPayload => 3
  | .malformedTrailer => 4
  | .missingChecksum => 5
  | .bufferTooSmall => 6
  | .readFailure => 7
  | .readTimeout => 8
  | .incompleteWrite => 9
  | .writeFailure => 10
  | .writeTimeout => 11
  | .checksumMismatch => 12

/-- A flag as a 32-bit word, 1 when set. -/
def flagWord (b : Bool) : Word := if b then 1 else 0

/-- A STATUS word: BUSY [0], DONE [1], CODE [7:4] (10 R18, R21). -/
def statusWord (busy done : Bool) (code : StatusCode) : Word :=
  (code.bits.setWidth 32 <<< 4) ||| (flagWord done <<< 1) ||| flagWord busy

/-- The decoder is busy (10 R28). -/
def State.decBusy (s : State) : Bool := decide (s.dec.state ≠ .dIdle)
/-- The encoder is busy (10 R28). -/
def State.encBusy (s : State) : Bool := decide (s.enc.state ≠ .eIdle)

end Sys2Proof.Machine
end

