-- ==== Sys2Proof/Machine/Ops.lean ====
section
/-! DEFINITION. The named operations: byte memories (spec 10 R30 to R32, 20 R39, R40), outputs at the ports, and how a
unit's operation ends (60 R116, R117), which is what FRC has where another machine takes an exception (60 R118). -/

namespace Sys2Proof.Machine

/-- What a memory says of an offset it does not list: no byte is known there (70 R130; log 5). -/
def Memory.unlisted : Option Byte := none

/-- The byte listed at an offset. -/
def Memory.read : Memory → Nat → Option Byte
  | [], _ => Memory.unlisted
  | (k, v) :: m, a => if a = k then some v else Memory.read m a

/-- List a byte at an offset, keeping the offsets strictly rising. -/
def Memory.write : Memory → Nat → Byte → Memory
  | [], a, b => [(a, b)]
  | (k, v) :: m, a, b =>
    if a < k then (a, b) :: (k, v) :: m
    else if a = k then (a, b) :: m
    else (k, v) :: Memory.write m a b

/-- The canonical form: offsets strictly rising, and no entry equal to what an unlisted offset reads as. -/
abbrev Memory.wf (m : Memory) : Prop :=
  m.Pairwise (fun x y => x.1 < y.1) ∧ ∀ c ∈ m, some c.2 ≠ Memory.unlisted

/-- Every listed offset is below `n`. -/
abbrev Memory.within (n : Nat) (m : Memory) : Prop := ∀ c ∈ m, c.1 < n

/-- EBUF_SIZE (00 R8). -/
def ebufSize : Nat := 65535
/-- PBUF_SIZE (00 R8). -/
def pbufSize : Nat := 65535

/-- EBUF[i]: the byte written there, or the unspecified byte it holds (40 R75; log 5). -/
def State.ebufByte (s : State) (i : Nat) : Byte := (s.ebuf.read i).getD (Config.unwritten .ebuf s.resets i)
/-- PBUF[i] (10 R31; log 5). -/
def State.pbufByte (s : State) (i : Nat) : Byte := (s.pbuf.read i).getD (Config.unwritten .pbuf s.resets i)
/-- OBUF[i] (40 R77; log 5). -/
def State.obufByte (s : State) (i : Nat) : Byte := (s.obuf.read i).getD (Config.unwritten .obuf s.resets i)

/-- `M[0..n)` of 00 R10, for a memory given by its bytes. -/
def firstBytes (byteAt : Nat → Byte) (n : Nat) : List Byte := (List.range n).map byteAt

/-- EBUF[0..n), the payload CHK_GEN sees at ENCODE issue (42 R98). -/
def State.ebufBytes (s : State) (n : Nat) : List Byte := firstBytes s.ebufByte n
/-- PBUF[0..n), the payload CHK_ACCEPT sees (41 R87). -/
def State.pbufBytes (s : State) (n : Nat) : List Byte := firstBytes s.pbufByte n

/-- `EBUF[i] <- b` (40 R76). -/
def State.storeEbuf (s : State) (i : Nat) (b : Byte) : State := { s with ebuf := s.ebuf.write i b }
/-- `PBUF[i] <- b` (41 R86). -/
def State.storePbuf (s : State) (i : Nat) (b : Byte) : State := { s with pbuf := s.pbuf.write i b }

/-- `for i in 0 .. n-1: M[i] <- src[i]` (41 R87). -/
def copyBytes (src : Nat → Byte) : Nat → Memory → Memory
  | 0, m => m
  | n + 1, m => (copyBytes src n m).write n (src n)

/-- The one atomic copy of PBUF[0..n) into OBUF (41 R87, 20 R47). -/
def State.copyToObuf (s : State) (n : Nat) : State := { s with obuf := copyBytes s.pbufByte n s.obuf }

/-- RDATA of a host read, returned to the host (20 R37). -/
def State.respond (s : State) (rdata : Word) : State :=
  { s with env := { s.env with responses := s.env.responses ++ [rdata] } }

/-- The TX sink takes a byte (42 R95). -/
def State.putWire (s : State) (b : Byte) : State := { s with env := { s.env with wire := s.env.wire ++ [b] } }

/-- `dec_finish(code)` (60 R116): the decode ends, its progress registers keep their values. -/
def State.decFinish (s : State) (c : StatusCode) : State :=
  { s with dec := { s.dec with state := .dIdle, done := true, code := c } }

/-- `enc_finish(code)` (60 R117): the encode ends, `e_count` keeps its value. -/
def State.encFinish (s : State) (c : StatusCode) : State :=
  { s with enc := { s.enc with state := .eIdle, done := true, code := c } }

end Sys2Proof.Machine
end

