-- ==== Sys2Proof/Machine/Operands.lean ====
section
/-! DEFINITION. Operand forms: CSR indexes and their read values (spec 10 R15, 40 R70), LENGTH assembly (30 R63),
the byte the encoder offers (42 R97), and the frame (30 R56). -/

namespace Sys2Proof.Machine

/-- START_BYTE (00 R7). -/
def startByte : Byte := 0x02
/-- END_BYTE (00 R7). -/
def endByte : Byte := 0x03

/-- The register an index names; none for a reserved index (10 R15). -/
def csrAt (offset : Half) : Option Csr :=
  match offset.toNat with
  | 0 => some .cmd
  | 1 => some .encLen
  | 2 => some .encStatus
  | 3 => some .encCount
  | 4 => some .decCap
  | 5 => some .decStatus
  | 6 => some .decLen
  | 7 => some .decCount
  | 8 => some .decChk
  | 9 => some .errf
  | _ => none

/-- What a read of a register gives (40 R70). -/
def State.csrValue (s : State) : Csr → Word
  | .cmd => 0
  | .encLen => s.encLen.setWidth 32
  | .encStatus => statusWord s.encBusy s.enc.done s.enc.code
  | .encCount => s.enc.count.setWidth 32
  | .decCap => s.decCap.setWidth 32
  | .decStatus => statusWord s.decBusy s.dec.done s.dec.code
  | .decLen => (flagWord s.dec.lenValid <<< 16) ||| s.dec.len.setWidth 32
  | .decCount => s.dec.count.setWidth 32
  | .decChk => (flagWord s.dec.chkValid <<< 8) ||| s.dec.chk.setWidth 32
  | .errf => s.errf.setWidth 32

/-- RDATA of a CSR read; a reserved index reads 0 (40 R70). -/
def State.csrRead (s : State) (offset : Half) : Word :=
  match csrAt offset with
  | some r => s.csrValue r
  | none => 0

/-- Does EBUF have this offset? 0xFFFF is reserved (20 R39). -/
abbrev inEbuf (offset : Half) : Prop := offset.toNat < ebufSize

/-- Does OBUF have this offset? (20 R40) -/
abbrev State.inObuf (s : State) (offset : Half) : Prop := offset.toNat < s.params.obufSize.toNat

/-- The byte an EBUF or OBUF write carries, WDATA[7:0] (30 R64). -/
def wdataByte (wdata : Word) : Byte := wdata.setWidth 8

/-- DEC_CAP's write-any-read-legal value, min(WDATA[15:0], OBUF_SIZE) (10 R20). -/
def legalCap (p : Params) (wdata : Word) : Half :=
  if (wdata.setWidth 16 : Half) ≤ p.obufSize then wdata.setWidth 16 else p.obufSize

/-- LENGTH from its two bytes, big-endian (30 R63). -/
def lengthOf (hi lo : Byte) : Half := (hi.setWidth 16 <<< 8) ||| lo.setWidth 16
/-- LEN_HI, `L[15:8]` (30 R56, R63). -/
def lenHi (len : Half) : Byte := len.extractLsb' 8 8
/-- LEN_LO, `L[7:0]` (30 R56, R63). -/
def lenLo (len : Half) : Byte := len.extractLsb' 0 8

/-- `emit(estate)`, the byte offered to the TX sink; none while idle (42 R96, R97). -/
def State.emit (s : State) : Option Byte :=
  match s.enc.state with
  | .eIdle => none
  | .eStart => some startByte
  | .eLenhi => some (lenHi s.enc.len)
  | .eLenlo => some (lenLo s.enc.len)
  | .ePay => some (s.ebufByte s.enc.idx.toNat)
  | .eEnd => some endByte
  | .eChk => some s.enc.chk

end Sys2Proof.Machine
end

