-- ==== Sys2Proof/Machine/Commands.lean ====
section
/-! DEFINITION. The commands: a CSRW to CMD (spec 40 R72 to R74, 42 R98, 41 R85). -/

namespace Sys2Proof.Machine

/-- What ENCODE does to an idle encoder (42 R98): ENC_LEN is latched, the CHECK byte is generated, START is offered. -/
def State.startEncode (s : State) : State :=
  { s with enc :=
    { state := .eStart, len := s.encLen, idx := 0, chk := chkGen s.params (s.ebufBytes s.encLen.toNat),
      count := 0, done := false, code := .ok } }

/-- What DECODE does to an idle decoder (41 R85): DEC_CAP is latched, the last result is cleared, START is expected. -/
def State.startDecode (s : State) : State :=
  { s with dec :=
    { state := .dHdr, cap := s.decCap, lenhi := 0, len := 0, lenValid := false, idx := 0, count := 0,
      chk := 0, chkValid := false, done := false, code := .ok } }

/-- NOP (40 R73): no effect. -/
def execNop (s : State) : Host.Outcome State Fault Refusal := .next s

/-- ENCODE (42 R98): dropped and flagged while the encoder is busy. -/
def execEncode (s : State) : Host.Outcome State Fault Refusal :=
  if s.encBusy then .next (s.setErr .encBusyCmd) else .next s.startEncode

/-- DECODE (41 R85): dropped and flagged while the decoder is busy. -/
def execDecode (s : State) : Host.Outcome State Fault Refusal :=
  if s.decBusy then .next (s.setErr .decBusyCmd) else .next s.startDecode

/-- CMD_RSVD (40 R74): ignored and flagged, before any busy check. -/
def execCmdRsvd (s : State) : Host.Outcome State Fault Refusal := .next (s.setErr .rsvdCmd)

/-- `command(WDATA)` (40 R72): the effect of a CSRW to CMD. -/
def command (w : Word) (s : State) : Host.Outcome State Fault Refusal :=
  if w = 0 then execNop s
  else if w = 1 then execEncode s
  else if w = 2 then execDecode s
  else execCmdRsvd s

end Sys2Proof.Machine
end

