-- ==== Sys2Proof/Machine/HostBus.lean ====
section
/-! DEFINITION. The host bus requests (spec 40). No request raises a status code; a refused one sets one ERRF bit
(40 R81). -/

namespace Sys2Proof.Machine

/-- CSRR (40 R70). -/
def execCsrr (offset : Half) (s : State) : Host.Outcome State Fault Refusal :=
  .next (s.respond (s.csrRead offset))

/-- CSRW (40 R71): CMD is a command, ENC_LEN and DEC_CAP store, ERRF is write-1-to-clear, every other index is
ignored and sets BAD_ACCESS. -/
def execCsrw (offset : Half) (wdata : Word) (s : State) : Host.Outcome State Fault Refusal :=
  match csrAt offset with
  | some .cmd => command wdata s
  | some .encLen => .next { s with encLen := wdata.setWidth 16 }
  | some .decCap => .next { s with decCap := legalCap s.params wdata }
  | some .errf => .next (s.clearErr wdata)
  | some .encStatus => .next (s.setErr .badAccess)
  | some .encCount => .next (s.setErr .badAccess)
  | some .decStatus => .next (s.setErr .badAccess)
  | some .decLen => .next (s.setErr .badAccess)
  | some .decCount => .next (s.setErr .badAccess)
  | some .decChk => .next (s.setErr .badAccess)
  | none => .next (s.setErr .badAccess)

/-- EBR (40 R75): allowed at any time; the reserved offset reads 0. -/
def execEbr (offset : Half) (s : State) : Host.Outcome State Fault Refusal :=
  if inEbuf offset then .next (s.respond ((s.ebufByte offset.toNat).setWidth 32))
  else .next (s.respond 0)

/-- EBW (40 R76): the reserved offset first, then the busy encoder, then the store. -/
def execEbw (offset : Half) (wdata : Word) (s : State) : Host.Outcome State Fault Refusal :=
  if ¬ inEbuf offset then .next (s.setErr .badAccess)
  else if s.encBusy then .next (s.setErr .ebufWrBusy)
  else .next (s.storeEbuf offset.toNat (wdataByte wdata))

/-- OBR (40 R77): offsets at or above OBUF_SIZE read 0. -/
def execObr (offset : Half) (s : State) : Host.Outcome State Fault Refusal :=
  if s.inObuf offset then .next (s.respond ((s.obufByte offset.toNat).setWidth 32))
  else .next (s.respond 0)

/-- OBW (40 R78): ignored at every offset; only the decoder writes OBUF. -/
def execObw (s : State) : Host.Outcome State Fault Refusal := .next (s.setErr .badAccess)

/-- RSVR (40 R79): reads 0. -/
def execRsvr (s : State) : Host.Outcome State Fault Refusal := .next (s.respond 0)

/-- RSVW (40 R80): ignored. -/
def execRsvw (s : State) : Host.Outcome State Fault Refusal := .next (s.setErr .badAccess)

end Sys2Proof.Machine
end

