-- ==== Sys2Proof/Machine/ResetEvent.lean ====
section
/-! DEFINITION. The RESET event (spec 70 R129 to R131). -/

namespace Sys2Proof.Machine

/-- Every CSR and unit variable takes its reset value (70 R129). The memories hold unspecified bytes: nothing is listed,
and the free values are those of a new reset (70 R130; logs 5, 6). The environment is not touched (70 R131). -/
def State.afterReset (s : State) : State :=
  { s with
    encLen := 0
    decCap := s.params.obufSize
    errf := 0
    dec := Decoder.atReset
    enc := Encoder.atReset
    ebuf := []
    pbuf := []
    obuf := []
    resets := s.resets + 1 }

/-- RESET (70 R129). -/
def execReset (s : State) : Host.Outcome State Fault Refusal := .next s.afterReset

end Sys2Proof.Machine
end

