-- ==== Sys2Proof/Machine/RxSymbols.lean ====
section
/-! DEFINITION. The RX symbols: the length-prefixed frame parser (spec 41 R86 to R90). An idle decoder takes no
symbol (41 R83), so each meaning leaves it as it was (log 8). -/

namespace Sys2Proof.Machine

/-- `d_count <- d_count + 1` (41 R86). -/
def State.countByte (s : State) : State := { s with dec := { s.dec with count := s.dec.count + 1 } }

/-- Step 1, START (41 R86, D_HDR). -/
def takeStart (b : Byte) (s : State) : State :=
  if b = startByte then { s with dec := { s.dec with state := .dLenhi } } else s.decFinish .malformedHeader

/-- Step 2, LEN_HI (41 R86, D_LENHI). -/
def takeLenHi (b : Byte) (s : State) : State := { s with dec := { s.dec with lenhi := b, state := .dLenlo } }

/-- Step 2, LEN_LO (41 R86, D_LENLO). A LENGTH of 0 skips step 3 (41 R84). -/
def takeLenLo (b : Byte) (s : State) : State :=
  { s with dec :=
    { s.dec with
      len := lengthOf s.dec.lenhi b, lenValid := true, idx := 0,
      state := if lengthOf s.dec.lenhi b = 0 then .dTrl else .dPay } }

/-- Step 3, a payload byte (41 R86, D_PAY). PBUF has no byte at 65535 (10 R31; log 10). -/
def takePayload (b : Byte) (s : State) : Host.Outcome State Fault Refusal :=
  if s.dec.idx.toNat < pbufSize then
    .next { s.storePbuf s.dec.idx.toNat b with
      dec := { s.dec with
        idx := s.dec.idx + 1, state := if s.dec.idx + 1 = s.dec.len then .dTrl else .dPay } }
  else .fault (.pbufOffset s.dec.idx.toNat)

/-- Step 4, END (41 R86, D_TRL). -/
def takeEnd (b : Byte) (s : State) : State :=
  if b = endByte then { s with dec := { s.dec with state := .dChk } } else s.decFinish .malformedTrailer

/-- How many bytes the final event copies, min(d_cap, d_len) (41 R87). -/
def State.copyLength (s : State) : Nat := min s.dec.cap.toNat s.dec.len.toNat

/-- `dec_complete()`, steps 5 and 6 (41 R87): the policy first, then the bounded copy, then the capacity. OBUF has no
byte at or past OBUF_SIZE (10 R32; log 10). -/
def decComplete (s : State) : Host.Outcome State Fault Refusal :=
  if chkAccept s.params (s.pbufBytes s.dec.len.toNat) s.dec.chk = false then .next (s.decFinish .checksumMismatch)
  else if s.params.obufSize.toNat < s.copyLength then .fault (.obufOffset s.params.obufSize.toNat)
  else if s.dec.cap < s.dec.len then .next ((s.copyToObuf s.copyLength).decFinish .bufferTooSmall)
  else .next ((s.copyToObuf s.copyLength).decFinish .ok)

/-- Step 5, CHECK, and the end of the decode in the same event (41 R86, D_CHK, and R87). -/
def takeCheck (b : Byte) (s : State) : Host.Outcome State Fault Refusal :=
  decComplete { s with dec := { s.dec with chk := b, chkValid := true } }

/-- RX_BYTE (41 R86). -/
def execRxByte (data : Byte) (s : State) : Host.Outcome State Fault Refusal :=
  match s.dec.state with
  | .dIdle => .next s
  | .dHdr => .next (takeStart data s.countByte)
  | .dLenhi => .next (takeLenHi data s.countByte)
  | .dLenlo => .next (takeLenLo data s.countByte)
  | .dPay => takePayload data s.countByte
  | .dTrl => .next (takeEnd data s.countByte)
  | .dChk => takeCheck data s.countByte

/-- The structural failure of each step when no byte comes (41 R84, R88); an idle decoder has none. -/
def exhaustedCode : DState → Option StatusCode
  | .dIdle => none
  | .dHdr => some .malformedHeader
  | .dLenhi => some .malformedLength
  | .dLenlo => some .malformedLength
  | .dPay => some .malformedPayload
  | .dTrl => some .malformedTrailer
  | .dChk => some .missingChecksum

/-- End a busy decode; an idle decoder takes nothing (41 R83). -/
def State.endDecode (s : State) (c : StatusCode) : State := if s.decBusy then s.decFinish c else s

/-- RX_EXHAUSTED (41 R88). -/
def execRxExhausted (s : State) : Host.Outcome State Fault Refusal :=
  match exhaustedCode s.dec.state with
  | none => .next s
  | some c => .next (s.decFinish c)

/-- RX_FAULT (41 R89): ReadFailure, whatever the step. -/
def execRxFault (s : State) : Host.Outcome State Fault Refusal := .next (s.endDecode .readFailure)

/-- RX_TIMEOUT (41 R90): ReadTimeout, whatever the step. -/
def execRxTimeout (s : State) : Host.Outcome State Fault Refusal := .next (s.endDecode .readTimeout)

end Sys2Proof.Machine
end

