-- ==== Sys2Proof/Machine/TxResponses.lean ====
section
/-! DEFINITION. The TX responses: the encoder's side of the TX port (spec 42 R99 to R102). An idle encoder offers
nothing and takes no response (42 R96), so each meaning leaves it as it was (log 8). -/

namespace Sys2Proof.Machine

/-- The encoder's variables after the sink accepts the offered byte (42 R99), `e_count` apart. -/
def Encoder.advance (e : Encoder) : Encoder :=
  match e.state with
  | .eIdle => e
  | .eStart => { e with state := .eLenhi }
  | .eLenhi => { e with state := .eLenlo }
  | .eLenlo => { e with state := if e.len = 0 then .eEnd else .ePay }
  | .ePay => { e with idx := e.idx + 1, state := if e.idx + 1 = e.len then .eEnd else .ePay }
  | .eEnd => { e with state := .eChk }
  | .eChk => { e with state := .eIdle, done := true, code := .ok }

/-- The offered byte goes out, is counted, and the encoder moves on (42 R95, R99). -/
def State.acceptByte (s : State) (b : Byte) : State :=
  { s.putWire b with enc := { s.enc with count := s.enc.count + 1 }.advance }

/-- TX_ACCEPT (42 R99). EBUF has no byte at 65535 (10 R30; log 10). -/
def execTxAccept (s : State) : Host.Outcome State Fault Refusal :=
  match s.emit with
  | none => .next s
  | some b =>
    if s.enc.state = .ePay ∧ ¬ s.enc.idx.toNat < ebufSize then .fault (.ebufOffset s.enc.idx.toNat)
    else .next (s.acceptByte b)

/-- End a busy encode; an idle encoder takes nothing (42 R96). -/
def State.endEncode (s : State) (c : StatusCode) : State := if s.encBusy then s.encFinish c else s

/-- TX_ZERO (42 R100): IncompleteWrite. -/
def execTxZero (s : State) : Host.Outcome State Fault Refusal := .next (s.endEncode .incompleteWrite)

/-- TX_FAULT (42 R101): WriteFailure. -/
def execTxFault (s : State) : Host.Outcome State Fault Refusal := .next (s.endEncode .writeFailure)

/-- TX_TIMEOUT (42 R102): WriteTimeout. -/
def execTxTimeout (s : State) : Host.Outcome State Fault Refusal := .next (s.endEncode .writeTimeout)

end Sys2Proof.Machine
end

