-- ==== Sys2Proof/Syntax.lean ====
section
/-! DEFINITION. The 21 rows of spec/opcode_table.json, and the input formats they are read from (spec 30 R65).

A constructor keeps every bit of its encoding, also the bits its meaning ignores, so that encoding loses nothing
(log 14). -/

namespace Sys2Proof

/-- One input of FRC in its format (30 R59 to R62, R65), before it is decoded. -/
inductive Packet where
  /-- A host bus request, HBR64 (30 R60). -/
  | hbr64 (w : BitVec 64)
  /-- The word of a command, CMD32 (30 R59): the WDATA of a CSRW to CMD. -/
  | cmd32 (w : Word)
  /-- A symbol from the RX source, RXSYM10 (30 R61). -/
  | rxsym10 (w : BitVec 10)
  /-- A response from the TX sink, TXRSP2 (30 R62). -/
  | txrsp2 (w : BitVec 2)
  /-- The reset event, which has no bits (70 R129). -/
  | resetEvent
  deriving DecidableEq, Repr

/-- One event of FRC, a row of the opcode table. -/
inductive Instr where
  /-- CSRR, read a CSR (40 R70). WDATA is ignored. -/
  | csrr (offset : Half) (wdata : Word)
  /-- CSRW, write a CSR (40 R71). -/
  | csrw (offset : Half) (wdata : Word)
  /-- EBR, read an EBUF byte (40 R75). WDATA is ignored. -/
  | ebr (offset : Half) (wdata : Word)
  /-- EBW, write an EBUF byte (40 R76). -/
  | ebw (offset : Half) (wdata : Word)
  /-- OBR, read an OBUF byte (40 R77). WDATA is ignored. -/
  | obr (offset : Half) (wdata : Word)
  /-- OBW, write to the OBUF space (40 R78). -/
  | obw (offset : Half) (wdata : Word)
  /-- RSVR, a reserved read (40 R79). Its operands are ignored. -/
  | rsvr (rsv : BitVec 13) (space : BitVec 2) (offset : Half) (wdata : Word)
  /-- RSVW, a reserved write (40 R80). Its operands are ignored. -/
  | rsvw (rsv : BitVec 13) (space : BitVec 2) (offset : Half) (wdata : Word)
  /-- NOP command (40 R73). -/
  | nop
  /-- ENCODE command (42 R98). -/
  | encode
  /-- DECODE command (41 R85). -/
  | decode
  /-- CMD_RSVD, a reserved command word (40 R74). -/
  | cmdRsvd (w : Word)
  /-- RX_BYTE, one data byte (41 R86). -/
  | rxByte (data : Byte)
  /-- RX_EXHAUSTED (41 R88). DATA is ignored. -/
  | rxExhausted (data : Byte)
  /-- RX_FAULT (41 R89). DATA is ignored. -/
  | rxFault (data : Byte)
  /-- RX_TIMEOUT (41 R90). DATA is ignored. -/
  | rxTimeout (data : Byte)
  /-- TX_ACCEPT (42 R99). -/
  | txAccept
  /-- TX_ZERO (42 R100). -/
  | txZero
  /-- TX_FAULT (42 R101). -/
  | txFault
  /-- TX_TIMEOUT (42 R102). -/
  | txTimeout
  /-- RESET (70 R129). -/
  | reset
  deriving DecidableEq, Repr

end Sys2Proof
end

