-- ==== Sys2Proof/Machine/Dispatch.lean ====
section
/-! DEFINITION. One arm per row of the opcode table, each a call of that row's meaning. -/

namespace Sys2Proof.Machine

def exec (i : Instr) (s : State) : Host.Outcome State Fault Refusal :=
  match i with
  | .csrr offset _ => Sys2Proof.Machine.execCsrr offset s
  | .csrw offset wdata => Sys2Proof.Machine.execCsrw offset wdata s
  | .ebr offset _ => Sys2Proof.Machine.execEbr offset s
  | .ebw offset wdata => Sys2Proof.Machine.execEbw offset wdata s
  | .obr offset _ => Sys2Proof.Machine.execObr offset s
  | .obw _ _ => Sys2Proof.Machine.execObw s
  | .rsvr _ _ _ _ => Sys2Proof.Machine.execRsvr s
  | .rsvw _ _ _ _ => Sys2Proof.Machine.execRsvw s
  | .nop => Sys2Proof.Machine.execNop s
  | .encode => Sys2Proof.Machine.execEncode s
  | .decode => Sys2Proof.Machine.execDecode s
  | .cmdRsvd _ => Sys2Proof.Machine.execCmdRsvd s
  | .rxByte data => Sys2Proof.Machine.execRxByte data s
  | .rxExhausted _ => Sys2Proof.Machine.execRxExhausted s
  | .rxFault _ => Sys2Proof.Machine.execRxFault s
  | .rxTimeout _ => Sys2Proof.Machine.execRxTimeout s
  | .txAccept => Sys2Proof.Machine.execTxAccept s
  | .txZero => Sys2Proof.Machine.execTxZero s
  | .txFault => Sys2Proof.Machine.execTxFault s
  | .txTimeout => Sys2Proof.Machine.execTxTimeout s
  | .reset => Sys2Proof.Machine.execReset s

end Sys2Proof.Machine
end

