-- ==== Sys2Proof/WellFormed.lean ====
section
/-! DEFINITION. Which terms of `Instr` stand for an encoding. Three rows are fallbacks (spec 30 R65, R66) and hold
only what no exact row takes; every other term is well formed. -/

namespace Sys2Proof

/-- RSV or SPACE makes a host bus request reserved (30 R65, 40 R79, R80). -/
abbrev ReservedRequest (rsv : BitVec 13) (space : BitVec 2) : Prop := rsv ≠ 0 ∨ space = 3

/-- A CMD32 word that is none of NOP, ENCODE and DECODE (30 R59, 40 R74). -/
abbrev ReservedCommand (w : Word) : Prop := w ≠ 0 ∧ w ≠ 1 ∧ w ≠ 2

/-- The checks on an instruction's fields, as a Bool. -/
def Instr.wellFormed : Instr → Bool
  | .csrr _ _ => true
  | .csrw _ _ => true
  | .ebr _ _ => true
  | .ebw _ _ => true
  | .obr _ _ => true
  | .obw _ _ => true
  | .rsvr rsv space _ _ => decide (ReservedRequest rsv space)
  | .rsvw rsv space _ _ => decide (ReservedRequest rsv space)
  | .nop => true
  | .encode => true
  | .decode => true
  | .cmdRsvd w => decide (ReservedCommand w)
  | .rxByte _ => true
  | .rxExhausted _ => true
  | .rxFault _ => true
  | .rxTimeout _ => true
  | .txAccept => true
  | .txZero => true
  | .txFault => true
  | .txTimeout => true
  | .reset => true

/-- The instruction stands for an encoding. -/
abbrev Instr.WellFormed (i : Instr) : Prop := i.wellFormed = true

end Sys2Proof
end

