-- ==== Sys2Proof/Decode.lean ====
section
/-! DEFINITION. Decoding each input format (spec 30 R59 to R62, R65, R66), the encoder written from the same
tables, and the host's entry `decodeTableWord`. -/

namespace Sys2Proof

/-- HBR64 bit [0], RW (30 R60). -/
def hbrRw (w : BitVec 64) : BitVec 1 := w.extractLsb' 0 1
/-- HBR64 bits [2:1], SPACE (30 R60). -/
def hbrSpace (w : BitVec 64) : BitVec 2 := w.extractLsb' 1 2
/-- HBR64 bits [15:3], RSV (30 R60). -/
def hbrRsv (w : BitVec 64) : BitVec 13 := w.extractLsb' 3 13
/-- HBR64 bits [31:16], OFFSET (30 R60). -/
def hbrOffset (w : BitVec 64) : Half := w.extractLsb' 16 16
/-- HBR64 bits [63:32], WDATA (30 R60). -/
def hbrWdata (w : BitVec 64) : Word := w.extractLsb' 32 32

/-- RXSYM10 bits [7:0], DATA (30 R61). -/
def rxData (w : BitVec 10) : Byte := w.extractLsb' 0 8
/-- RXSYM10 bits [9:8], KIND (30 R61). -/
def rxKind (w : BitVec 10) : BitVec 2 := w.extractLsb' 8 2

/-- HBR64 decoding (30 R65): the reserved rows take what has RSV ≠ 0 or SPACE = 3, and (SPACE, RW) selects the
rest. Every 64-bit word decodes. -/
def decodeRequest (w : BitVec 64) : Instr :=
  if ReservedRequest (hbrRsv w) (hbrSpace w) then
    if hbrRw w = 0 then .rsvr (hbrRsv w) (hbrSpace w) (hbrOffset w) (hbrWdata w)
    else .rsvw (hbrRsv w) (hbrSpace w) (hbrOffset w) (hbrWdata w)
  else if hbrSpace w = 0 then
    if hbrRw w = 0 then .csrr (hbrOffset w) (hbrWdata w) else .csrw (hbrOffset w) (hbrWdata w)
  else if hbrSpace w = 1 then
    if hbrRw w = 0 then .ebr (hbrOffset w) (hbrWdata w) else .ebw (hbrOffset w) (hbrWdata w)
  else
    if hbrRw w = 0 then .obr (hbrOffset w) (hbrWdata w) else .obw (hbrOffset w) (hbrWdata w)

/-- CMD32 decoding over the whole word (30 R59, 40 R72). Every 32-bit word decodes. -/
def decodeCommand (w : Word) : Instr :=
  if w = 0 then .nop
  else if w = 1 then .encode
  else if w = 2 then .decode
  else .cmdRsvd w

/-- RXSYM10 decoding by KIND alone (30 R61, R65). -/
def decodeSymbol (w : BitVec 10) : Instr :=
  if rxKind w = 0 then .rxByte (rxData w)
  else if rxKind w = 1 then .rxExhausted (rxData w)
  else if rxKind w = 2 then .rxFault (rxData w)
  else .rxTimeout (rxData w)

/-- TXRSP2 decoding by KIND (30 R62, R65). -/
def decodeResponse (w : BitVec 2) : Instr :=
  if w = 0 then .txAccept
  else if w = 1 then .txZero
  else if w = 2 then .txFault
  else .txTimeout

/-- The instruction an input stands for (30 R65). Total: FRC has no encoding that is not an event, since the
reserved ones are rows of their own (30 R66). -/
def decode : Packet → Instr
  | .hbr64 w => decodeRequest w
  | .cmd32 w => decodeCommand w
  | .rxsym10 w => decodeSymbol w
  | .txrsp2 w => decodeResponse w
  | .resetEvent => .reset

/-- HBR64 from its fields, the formula of 30 R60 with RSV added at [15:3]. -/
def hbr64 (rw : BitVec 1) (space : BitVec 2) (rsv : BitVec 13) (offset : Half) (wdata : Word) : BitVec 64 :=
  (wdata.setWidth 64 <<< 32) ||| (offset.setWidth 64 <<< 16) ||| (rsv.setWidth 64 <<< 3) |||
    (space.setWidth 64 <<< 1) ||| rw.setWidth 64

/-- RXSYM10 from its fields (30 R61). -/
def rxsym10 (kind : BitVec 2) (data : Byte) : BitVec 10 := (kind.setWidth 10 <<< 8) ||| data.setWidth 10

/-- The input that a well-formed instruction is read from (30 R59 to R62). -/
def encode : Instr → Packet
  | .csrr offset wdata => .hbr64 (hbr64 0 0 0 offset wdata)
  | .csrw offset wdata => .hbr64 (hbr64 1 0 0 offset wdata)
  | .ebr offset wdata => .hbr64 (hbr64 0 1 0 offset wdata)
  | .ebw offset wdata => .hbr64 (hbr64 1 1 0 offset wdata)
  | .obr offset wdata => .hbr64 (hbr64 0 2 0 offset wdata)
  | .obw offset wdata => .hbr64 (hbr64 1 2 0 offset wdata)
  | .rsvr rsv space offset wdata => .hbr64 (hbr64 0 space rsv offset wdata)
  | .rsvw rsv space offset wdata => .hbr64 (hbr64 1 space rsv offset wdata)
  | .nop => .cmd32 0
  | .encode => .cmd32 1
  | .decode => .cmd32 2
  | .cmdRsvd w => .cmd32 w
  | .rxByte data => .rxsym10 (rxsym10 0 data)
  | .rxExhausted data => .rxsym10 (rxsym10 1 data)
  | .rxFault data => .rxsym10 (rxsym10 2 data)
  | .rxTimeout data => .rxsym10 (rxsym10 3 data)
  | .txAccept => .txrsp2 0
  | .txZero => .txrsp2 1
  | .txFault => .txrsp2 2
  | .txTimeout => .txrsp2 3
  | .reset => .resetEvent

/-- Why raw bits are no input of FRC. -/
inductive DecodeError where
  /-- No format of 30 R65 has this many bits. -/
  | noFormatOfWidth (nbits : Nat)
  /-- A bit is set above the format's width (30 R67: each format has one fixed length). -/
  | bitAboveFormat (nbits : Nat)
  deriving DecidableEq, Repr

/-- Bits of a given width as an input (log 13). A width is a format's own, or that width in whole bytes:
64 HBR64, 32 CMD32, 10 or 16 RXSYM10, 2 or 8 TXRSP2, 0 the reset event. -/
def readPacket (nbits w : Nat) : Except DecodeError Packet :=
  match nbits with
  | 64 => if w < 2 ^ 64 then .ok (.hbr64 (BitVec.ofNat 64 w)) else .error (.bitAboveFormat 64)
  | 32 => if w < 2 ^ 32 then .ok (.cmd32 (BitVec.ofNat 32 w)) else .error (.bitAboveFormat 32)
  | 16 => if w < 2 ^ 10 then .ok (.rxsym10 (BitVec.ofNat 10 w)) else .error (.bitAboveFormat 16)
  | 10 => if w < 2 ^ 10 then .ok (.rxsym10 (BitVec.ofNat 10 w)) else .error (.bitAboveFormat 10)
  | 8 => if w < 2 ^ 2 then .ok (.txrsp2 (BitVec.ofNat 2 w)) else .error (.bitAboveFormat 8)
  | 2 => if w < 2 ^ 2 then .ok (.txrsp2 (BitVec.ofNat 2 w)) else .error (.bitAboveFormat 2)
  | 0 => if w = 0 then .ok .resetEvent else .error (.bitAboveFormat 0)
  | n => .error (.noFormatOfWidth n)

/-- The instruction read from a row's bits as spec/opcode_table.json numbers them, none where they are no input. -/
def decodeTableWord (nbits w : Nat) : Option Instr :=
  match readPacket nbits w with
  | .ok p => some (decode p)
  | .error _ => none

end Sys2Proof
end

