-- ==== Sys2Proof/Machine/Fetch.lean ====
section
/-! DEFINITION. Which event comes next (spec 00 R3, 10 R35, 20 R50; logs 1, 9), and how the host's check places one. -/

namespace Sys2Proof.Machine

/-- The state with its environment's schedule replaced. -/
def State.withSchedule (s : State) (l : List Agent) : State := { s with env := { s.env with schedule := l } }

/-- The host's next request, taken from its queue (20 R37). -/
def State.takeRequest (s : State) : Option Packet × State :=
  match s.env.hostRequests with
  | [] => (none, s)
  | w :: ws => (some (.hbr64 w), { s with env := { s.env with hostRequests := ws } })

/-- The RX source's next symbol, delivered only while the decoder is busy; else the source holds it (10 R35, 41 R83). -/
def State.takeSymbol (s : State) : Option Packet × State :=
  match s.env.rxSymbols with
  | [] => (none, s)
  | w :: ws => if s.decBusy then (some (.rxsym10 w), { s with env := { s.env with rxSymbols := ws } }) else (none, s)

/-- The TX sink's next response, given only while the encoder offers a byte (10 R35, 42 R96). -/
def State.takeResponse (s : State) : Option Packet × State :=
  match s.env.txResponses with
  | [] => (none, s)
  | w :: ws => if s.encBusy then (some (.txrsp2 w), { s with env := { s.env with txResponses := ws } }) else (none, s)

/-- The next event, if there is one, and the state with that event taken from the environment. The agent that
is next may have nothing to give, and then no event happens. -/
def fetch (s : State) : Option Packet × State :=
  match s.env.schedule with
  | [] => (none, s)
  | .host :: rest => (s.withSchedule rest).takeRequest
  | .rxSource :: rest => (s.withSchedule rest).takeSymbol
  | .txSink :: rest => (s.withSchedule rest).takeResponse
  | .resetLine :: rest => (some .resetEvent, s.withSchedule rest)

/-- Let this agent act next. -/
def State.scheduleFirst (s : State) (a : Agent) : State := s.withSchedule (a :: s.env.schedule)

/-- Make a host request the next event. -/
def State.placeRequest (s : State) (w : BitVec 64) : State :=
  { s.scheduleFirst .host with env := { (s.scheduleFirst .host).env with hostRequests := w :: s.env.hostRequests } }

/-- The decoder busy, as a decoder takes a symbol only then (10 R35): a DECODE is issued first if it is idle. -/
def State.readyDecoder (s : State) : State := if s.decBusy then s else s.startDecode

/-- The encoder busy, as an encoder takes a response only then (10 R35): an ENCODE is issued first if it is idle. -/
def State.readyEncoder (s : State) : State := if s.encBusy then s else s.startEncode

/-- Make a symbol the next event. -/
def State.placeSymbol (s : State) (w : BitVec 10) : State :=
  { s.readyDecoder with
    env := { (s.scheduleFirst .rxSource).env with rxSymbols := w :: s.env.rxSymbols } }

/-- Make a response the next event. -/
def State.placeResponse (s : State) (w : BitVec 2) : State :=
  { s.readyEncoder with
    env := { (s.scheduleFirst .txSink).env with txResponses := w :: s.env.txResponses } }

/-- Make an input the next event (log 1). A CMD32 word comes as the WDATA of a CSRW to CMD (30 R65). -/
def State.place (s : State) : Packet → State
  | .hbr64 w => s.placeRequest w
  | .cmd32 w => s.placeRequest (hbr64 1 0 0 0 w)
  | .rxsym10 w => s.placeSymbol w
  | .txrsp2 w => s.placeResponse w
  | .resetEvent => s.scheduleFirst .resetLine

/-- The bits of an input as the next event; bits that are no input place nothing. -/
def placeWord (s : State) (nbits w : Nat) : State :=
  match readPacket nbits w with
  | .ok p => s.place p
  | .error _ => s

/-- One event: the next input, decoded and handed to a meaning; without one, FRC waits and holds its state
(60 R128, 70 R139; log 9). -/
def runEvent (run : Instr → State → Host.Outcome State Fault Refusal) (s : State) : Host.Outcome State Fault Refusal :=
  match fetch s with
  | (none, s') => .next s'
  | (some p, s') => run (decode p) s'

end Sys2Proof.Machine
end

