-- ==== Sys2Proof/Machine/Step.lean ====
section
/-! DEFINITION. One step: one atomic event (spec 00 R3, 20 R48). -/

namespace Sys2Proof.Machine

/-- One event of FRC and its environment. -/
def step (s : State) : Host.Outcome State Fault Refusal := runEvent exec s

/-- The state in which the very next step runs the instruction with these bits (log 1). -/
def State.withFetchWord (s : State) (nbits w : Nat) : State := placeWord s nbits w

end Sys2Proof.Machine
end

