-- ==== Sys2Proof/Safety.lean ====
section
/-! DEFINITION. What counts as a good state of FRC: the invariant of its runs, in the parts that the spec states, and
the words that statements use. -/

namespace Sys2Proof.Machine

/-- The byte memories keep their canonical form and their sizes (spec 10 R30 to R32). -/
structure MemoryInv (s : State) : Prop where
  ebuf_wf : s.ebuf.wf
  ebuf_within : s.ebuf.within ebufSize
  pbuf_wf : s.pbuf.wf
  pbuf_within : s.pbuf.within pbufSize
  obuf_wf : s.obuf.wf
  obuf_within : s.obuf.within s.params.obufSize.toNat

/-- Where a busy decoder stands in the frame (10 R14, R26; 41 R84): what it has taken, and no CHECK byte yet. -/
def Decoder.Position (d : Decoder) : Prop :=
  match d.state with
  | .dIdle => True
  | .dHdr => d.count.toNat = 0 ∧ d.lenValid = false ∧ d.chkValid = false
  | .dLenhi => d.count.toNat = 1 ∧ d.lenValid = false ∧ d.chkValid = false
  | .dLenlo => d.count.toNat = 2 ∧ d.lenValid = false ∧ d.chkValid = false
  | .dPay => d.count.toNat = 3 + d.idx.toNat ∧ d.idx.toNat < d.len.toNat ∧ d.lenValid = true ∧ d.chkValid = false
  | .dTrl => d.count.toNat = 3 + d.len.toNat ∧ d.idx = d.len ∧ d.lenValid = true ∧ d.chkValid = false
  | .dChk => d.count.toNat = 4 + d.len.toNat ∧ d.idx = d.len ∧ d.lenValid = true ∧ d.chkValid = false

/-- What a finished decode has recorded with its status code (60 R114, last column). -/
def Decoder.Recorded (p : Params) (d : Decoder) : Prop :=
  match d.code with
  | .ok =>
    d.count.toNat = 5 + d.len.toNat ∧ d.len.toNat ≤ d.cap.toNat ∧ d.lenValid = true ∧ d.chkValid = true
  | .malformedHeader => d.count.toNat ≤ 1 ∧ d.lenValid = false ∧ d.chkValid = false
  | .malformedLength => 1 ≤ d.count.toNat ∧ d.count.toNat ≤ 2 ∧ d.lenValid = false ∧ d.chkValid = false
  | .malformedPayload =>
    d.count.toNat = 3 + d.idx.toNat ∧ d.idx.toNat < d.len.toNat ∧ d.lenValid = true ∧ d.chkValid = false
  | .malformedTrailer =>
    3 + d.len.toNat ≤ d.count.toNat ∧ d.count.toNat ≤ 4 + d.len.toNat ∧ d.lenValid = true ∧ d.chkValid = false
  | .missingChecksum => d.count.toNat = 4 + d.len.toNat ∧ d.lenValid = true ∧ d.chkValid = false
  | .bufferTooSmall =>
    d.count.toNat = 5 + d.len.toNat ∧ d.cap.toNat < d.len.toNat ∧ d.lenValid = true ∧ d.chkValid = true
  | .readFailure => d.count.toNat ≤ 4 + d.len.toNat ∧ d.chkValid = false
  | .readTimeout => d.count.toNat ≤ 4 + d.len.toNat ∧ d.chkValid = false
  | .checksumMismatch =>
    d.count.toNat = 5 + d.len.toNat ∧ d.lenValid = true ∧ d.chkValid = true ∧ p.policy ≠ .placeholder
  | .incompleteWrite => False
  | .writeFailure => False
  | .writeTimeout => False

/-- The decoder's part of the invariant. -/
structure DecoderInv (s : State) : Prop where
  /-- DEC_CAP holds a legal value (10 R20). -/
  decCap_legal : s.decCap.toNat ≤ s.params.obufSize.toNat
  /-- The latched capacity is legal, so the final copy stays inside OBUF (41 R87). -/
  cap_legal : s.dec.cap.toNat ≤ s.params.obufSize.toNat
  /-- BUSY and DONE are never both 1 (10 R21). -/
  busy_not_done : s.decBusy = true → s.dec.done = false
  /-- CODE is 0 until the decode finishes (10 R21). -/
  code_until_done : s.dec.done = false → s.dec.code = .ok
  /-- LEN is 0 while LEN_VALID = 0 (10 R22). -/
  len_until_valid : s.dec.lenValid = false → s.dec.len = 0
  /-- CHK is 0 while CHK_VALID = 0 (10 R24). -/
  chk_until_valid : s.dec.chkValid = false → s.dec.chk = 0
  /-- The position of a busy decoder. -/
  position : s.dec.Position
  /-- An idle decoder that has finished nothing is as reset left it. -/
  untouched : s.decBusy = false → s.dec.done = false → s.dec = Decoder.atReset
  /-- The record of a finished decode. -/
  recorded : s.dec.done = true → s.dec.Recorded s.params
  /-- The payload bytes taken are in PBUF, so the decoder reads none it has not written (93 S1). -/
  payload_written : ∀ i, i < s.dec.idx.toNat → (s.pbuf.read i).isSome = true

/-- Where a busy encoder stands in the frame (10 R14, R27; 42 R97). -/
def Encoder.Position (e : Encoder) : Prop :=
  match e.state with
  | .eIdle => True
  | .eStart => e.count.toNat = 0 ∧ e.idx = 0
  | .eLenhi => e.count.toNat = 1 ∧ e.idx = 0
  | .eLenlo => e.count.toNat = 2 ∧ e.idx = 0
  | .ePay => e.count.toNat = 3 + e.idx.toNat ∧ e.idx.toNat < e.len.toNat
  | .eEnd => e.count.toNat = 3 + e.len.toNat ∧ e.idx = e.len
  | .eChk => e.count.toNat = 4 + e.len.toNat ∧ e.idx = e.len

/-- What a finished encode has recorded with its status code (60 R114, last column). -/
def Encoder.Recorded (e : Encoder) : Prop :=
  match e.code with
  | .ok => e.count.toNat = 5 + e.len.toNat
  | .incompleteWrite => e.count.toNat < 5 + e.len.toNat
  | .writeFailure => e.count.toNat < 5 + e.len.toNat
  | .writeTimeout => e.count.toNat < 5 + e.len.toNat
  | .malformedHeader => False
  | .malformedLength => False
  | .malformedPayload => False
  | .malformedTrailer => False
  | .missingChecksum => False
  | .bufferTooSmall => False
  | .readFailure => False
  | .readTimeout => False
  | .checksumMismatch => False

/-- The frame that the encoder's latched length and EBUF make (30 R56, 42 R97). -/
def State.encFrame (s : State) : List Byte := frame s.params (s.ebufBytes s.enc.len.toNat)

/-- The encoder's part of the invariant. -/
structure EncoderInv (s : State) : Prop where
  /-- BUSY and DONE are never both 1 (10 R18). -/
  busy_not_done : s.encBusy = true → s.enc.done = false
  /-- CODE is 0 until the encode finishes (10 R18). -/
  code_until_done : s.enc.done = false → s.enc.code = .ok
  /-- The position of a busy encoder. -/
  position : s.enc.Position
  /-- An idle encoder that has finished nothing is as reset left it. -/
  untouched : s.encBusy = false → s.enc.done = false → s.enc = Encoder.atReset
  /-- The record of a finished encode. -/
  recorded : s.enc.done = true → s.enc.Recorded
  /-- `e_chk` is the CHECK byte of the payload in EBUF (42 R98). -/
  check_byte : s.encBusy = true → s.enc.chk = chkGen s.params (s.ebufBytes s.enc.len.toNat)
  /-- The last ENC_COUNT bytes on the wire are the first ENC_COUNT bytes of the frame (42 R97). -/
  wire_so_far : s.encBusy = true → ∃ before, s.env.wire = before ++ s.encFrame.take s.enc.count.toNat

/-- The invariant: it holds after reset, and every event keeps it. -/
structure Inv (s : State) : Prop where
  memory : MemoryInv s
  decoder : DecoderInv s
  encoder : EncoderInv s

/-- Every byte of the three buffers reads in `t` as it does in `s`. -/
def SameBytes (s t : State) : Prop :=
  ∀ a, t.ebufByte a = s.ebufByte a ∧ t.pbufByte a = s.pbufByte a ∧ t.obufByte a = s.obufByte a

/-- Events one after another, up to the first that does not answer a next state. -/
def execAll : List Instr → State → Host.Outcome State Fault Refusal
  | [], s => .next s
  | i :: rest, s =>
    match exec i s with
    | .next t => execAll rest t
    | .fault r => .fault r
    | .refused r => .refused r

end Sys2Proof.Machine

namespace Sys2Proof

/-- The instruction is a symbol of the RX source (41). -/
def Instr.IsSymbol (i : Instr) : Prop :=
  (∃ b, i = .rxByte b) ∨ (∃ b, i = .rxExhausted b) ∨ (∃ b, i = .rxFault b) ∨ ∃ b, i = .rxTimeout b

/-- The instruction is a response of the TX sink (42). -/
def Instr.IsResponse (i : Instr) : Prop := i = .txAccept ∨ i = .txZero ∨ i = .txFault ∨ i = .txTimeout

/-- The instruction is DECODE, as a command or as the write to CMD that carries it (40 R72). -/
def Instr.IsDecode (i : Instr) : Prop := i = .decode ∨ i = .csrw 0 2

/-- The instruction is ENCODE, as a command or as the write to CMD that carries it (40 R72). -/
def Instr.IsEncode (i : Instr) : Prop := i = .encode ∨ i = .csrw 0 1

end Sys2Proof
end

