-- ==== Sys2Proof/Certificates/Slice0/Obligations.lean ====
section
/-! DEFINITION. The statements for the provers. Each docstring names the rule of the spec it formalises. Where a clause is
the model's own choice, the docstring names its log entry. -/

open Sys2Proof Sys2Proof.Machine

/-! ## Reset and the invariant -/

/-- R36 and R130, for every instance: all CSRs read 0 but DEC_CAP, which reads OBUF_SIZE; both units are idle, all unit
variables are 0, and no byte of EBUF, PBUF or OBUF has a known value. -/
def Obligations.ResetLeavesTheResetValues : Prop :=
  ∀ p : Params,
    (State.resetOf p).params = p ∧
    (∀ offset : Half, (State.resetOf p).csrRead offset = if offset = 4 then p.obufSize.setWidth 32 else 0) ∧
    (State.resetOf p).decBusy = false ∧ (State.resetOf p).encBusy = false ∧
    (State.resetOf p).dec =
      { state := .dIdle, cap := 0, lenhi := 0, len := 0, lenValid := false, idx := 0, count := 0, chk := 0,
        chkValid := false, done := false, code := .ok } ∧
    (State.resetOf p).enc =
      { state := .eIdle, len := 0, idx := 0, chk := 0, count := 0, done := false, code := .ok } ∧
    (State.resetOf p).emit = none ∧
    ∀ a, (State.resetOf p).ebuf.read a = none ∧ (State.resetOf p).pbuf.read a = none ∧
      (State.resetOf p).obuf.read a = none

/-- The fixed reset state is the instance at the spec's defaults, OBUF_SIZE 65535 and PLACEHOLDER (R8, R108). That this
one instance is taken is the model's choice (log 2). -/
def Obligations.ResetStateIsTheDefaultInstances : Prop :=
  State.reset = State.resetOf Params.standard ∧ State.reset.params.obufSize.toNat = 65535 ∧
    State.reset.params.policy = .placeholder ∧ (State.reset.csrRead 4).toNat = 65535 ∧ Inv State.reset

/-- R129, R130, R131: the RESET event completes in every state, also during operations. Every CSR and unit variable
takes its reset value, no byte of the memories keeps a known value, the parameters stay, and the environment agents
are not touched. -/
def Obligations.ResetEventRestoresEveryRegister : Prop :=
  ∀ s : State, ∃ t, exec .reset s = .next t ∧
    t.dec =
      { state := .dIdle, cap := 0, lenhi := 0, len := 0, lenValid := false, idx := 0, count := 0, chk := 0,
        chkValid := false, done := false, code := .ok } ∧
    t.enc = { state := .eIdle, len := 0, idx := 0, chk := 0, count := 0, done := false, code := .ok } ∧
    t.encLen = 0 ∧ t.decCap = s.params.obufSize ∧ t.errf = 0 ∧
    t.csrRead 2 = 0 ∧ t.csrRead 5 = 0 ∧ t.emit = none ∧
    (∀ a, t.ebuf.read a = none ∧ t.pbuf.read a = none ∧ t.obuf.read a = none) ∧
    t.params = s.params ∧ t.env = s.env

/-- The invariant holds after reset, for every instance. -/
def Obligations.InvariantHoldsAfterReset : Prop := ∀ p : Params, Inv (State.resetOf p)

/-- Every event keeps the invariant, from every state that meets it: canonical memories (R30 to R32), legal capacities
(R20), BUSY and DONE never both 1 and CODE 0 while busy (R18, R21), the units' positions and counts (R14, R26, R27), the
recorded outcomes (R114), the CHECK byte and the wire (R97, R98). -/
def Obligations.EveryStepKeepsTheInvariant : Prop := ∀ s t : State, Inv s → step s = .next t → Inv t

/-- From a state that meets the invariant no step faults and none is refused (R48, R118: no event stops FRC). -/
def Obligations.NoStepStopsTheMachine : Prop := ∀ s : State, Inv s → ∃ t, step s = .next t

/-- R33: no event changes the instance parameters. -/
def Obligations.NoStepChangesTheParameters : Prop := ∀ s t : State, step s = .next t → t.params = s.params

/-! ## Events -/

/-- R3, R35, R50: what a step does for each agent that the schedule names. An event is decoded and run on the state
from which it was taken; where the agent has nothing to give, or its unit takes nothing, only the schedule moves; an
empty schedule leaves the state as it is (logs 1, 9). -/
def Obligations.StepRunsTheNextEvent : Prop :=
  ∀ (s : State) (rest : List Agent),
    (s.env.schedule = [] → step s = .next s) ∧
    (s.env.schedule = .host :: rest →
      (s.env.hostRequests = [] → step s = .next { s with env := { s.env with schedule := rest } }) ∧
      ∀ w ws, s.env.hostRequests = w :: ws →
        step s = exec (decode (.hbr64 w)) { s with env := { s.env with schedule := rest, hostRequests := ws } }) ∧
    (s.env.schedule = .rxSource :: rest →
      (s.decBusy = false ∨ s.env.rxSymbols = [] → step s = .next { s with env := { s.env with schedule := rest } }) ∧
      ∀ w ws, s.env.rxSymbols = w :: ws → s.decBusy = true →
        step s = exec (decode (.rxsym10 w)) { s with env := { s.env with schedule := rest, rxSymbols := ws } }) ∧
    (s.env.schedule = .txSink :: rest →
      (s.encBusy = false ∨ s.env.txResponses = [] → step s = .next { s with env := { s.env with schedule := rest } }) ∧
      ∀ w ws, s.env.txResponses = w :: ws → s.encBusy = true →
        step s = exec (decode (.txrsp2 w)) { s with env := { s.env with schedule := rest, txResponses := ws } }) ∧
    (s.env.schedule = .resetLine :: rest → step s = exec .reset { s with env := { s.env with schedule := rest } })

/-- Bits that are placed as the next event are run by the very next step, on the state they were placed in (log 1). A
symbol or response comes to a busy unit, so an idle one is first started by its command. -/
def Obligations.PlacedInputRunsNext : Prop :=
  ∀ s : State,
    (∀ w : BitVec 64, step (s.withFetchWord 64 w.toNat) = exec (decode (.hbr64 w)) s) ∧
    (∀ w : Word, step (s.withFetchWord 32 w.toNat) = exec (decode (.cmd32 w)) s) ∧
    (∀ w : BitVec 10, step (s.withFetchWord 16 w.toNat) =
      exec (decode (.rxsym10 w)) (if s.decBusy then s else s.startDecode)) ∧
    (∀ w : BitVec 2, step (s.withFetchWord 8 w.toNat) =
      exec (decode (.txrsp2 w)) (if s.encBusy then s else s.startEncode)) ∧
    step (s.withFetchWord 0 0) = exec .reset s

/-- R35, R83, R96: no step takes a symbol from the RX source while the decoder is idle, nor a response from the TX sink
while the encoder is idle. The first two clauses are the model's choice (log 8): the spec says that a symbol on an idle
decoder, or a response on an idle encoder, does not happen, and for it exec leaves the state as it is. -/
def Obligations.IdleUnitsTakeNothing : Prop :=
  (∀ (i : Instr) (s : State), i.IsSymbol → s.decBusy = false → exec i s = .next s) ∧
  (∀ (i : Instr) (s : State), i.IsResponse → s.encBusy = false → exec i s = .next s) ∧
  (∀ s t : State, s.decBusy = false → step s = .next t → t.env.rxSymbols = s.env.rxSymbols) ∧
  ∀ s t : State, s.encBusy = false → step s = .next t → t.env.txResponses = s.env.txResponses

/-! ## Encodings -/

/-- R59 to R62, R65: decoding the encoding of a well-formed instruction gives it back, for all rows of the table and all
operands. That the bits a meaning ignores are operands too is the model's choice (log 14). -/
def Obligations.DecodeOfEncodeIsTheInstruction : Prop := ∀ i : Instr, i.WellFormed → decode (encode i) = i

/-- R65: every word of the four formats decodes to a well-formed instruction. That the encoding of that instruction is the
word again, also in the bits that its meaning ignores (WDATA of a read, DATA of a symbol that is no byte, the operands
of a reserved request), is the model's choice (log 14): the spec only says that those bits are ignored. -/
def Obligations.EncodeOfDecodeIsTheWord : Prop := ∀ p : Packet, (decode p).WellFormed ∧ encode (decode p) = p

/-- R65: the selector of each format chooses the row, and the fields are those of R60 and R61. -/
def Obligations.DecodingFollowsTheOpcodeMap : Prop :=
  (∀ (rw : BitVec 1) (space : BitVec 2) (rsv : BitVec 13) (offset : Half) (wdata : Word),
    decode (.hbr64 (wdata ++ offset ++ rsv ++ space ++ rw)) =
      if rsv ≠ 0 ∨ space = 3 then
        if rw = 0 then .rsvr rsv space offset wdata else .rsvw rsv space offset wdata
      else if space = 0 then if rw = 0 then .csrr offset wdata else .csrw offset wdata
      else if space = 1 then if rw = 0 then .ebr offset wdata else .ebw offset wdata
      else if rw = 0 then .obr offset wdata else .obw offset wdata) ∧
  (∀ (s : State) (w : Word), exec (.csrw 0 w) s = exec (decode (.cmd32 w)) s) ∧
  (∀ w : Word, decode (.cmd32 w) =
    if w = 0 then .nop else if w = 1 then .encode else if w = 2 then .decode else .cmdRsvd w) ∧
  (∀ (kind : BitVec 2) (data : Byte), decode (.rxsym10 (kind ++ data)) =
    if kind = 0 then .rxByte data else if kind = 1 then .rxExhausted data
    else if kind = 2 then .rxFault data else .rxTimeout data) ∧
  (∀ kind : BitVec 2, decode (.txrsp2 kind) =
    if kind = 0 then .txAccept else if kind = 1 then .txZero else if kind = 2 then .txFault else .txTimeout) ∧
  decode .resetEvent = .reset

/-- Words of 40 and 95, read as the spec reads them. -/
def Obligations.WrittenOutWordsDecode : Prop :=
  decode (.hbr64 0x0000000000040000) = .csrr 4 0 ∧
  decode (.hbr64 0x0001000500040001) = .csrw 4 0x10005 ∧
  decode (.hbr64 0x0000123400050003) = .ebw 5 0x1234 ∧
  decode (.hbr64 0x0000000000010004) = .obr 1 0 ∧
  decode (.hbr64 0x0000000100000009) = .rsvw 1 0 0 1 ∧
  decode (.cmd32 0x80000001) = .cmdRsvd 0x80000001 ∧
  decode (.rxsym10 0x102) = .rxExhausted 2 ∧
  decode (.txrsp2 3) = .txTimeout

/-- R63: the decoder forms LENGTH from its two bytes big-endian, the encoder sends its high byte and then its low byte,
and for every length the two are inverse. -/
def Obligations.LengthBytesAreInverse : Prop :=
  (∀ (b : Byte) (s : State), s.dec.state = .dLenlo →
    ∃ t, exec (.rxByte b) s = .next t ∧ t.dec.len.toNat = s.dec.lenhi.toNat * 256 + b.toNat) ∧
  (∀ s : State, s.enc.state = .eLenhi → s.emit = some (BitVec.ofNat 8 (s.enc.len.toNat / 256))) ∧
  (∀ s : State, s.enc.state = .eLenlo → s.emit = some (BitVec.ofNat 8 (s.enc.len.toNat % 256))) ∧
  ∀ len : Half, lengthOf (lenHi len) (lenLo len) = len ∧ len.toNat / 256 * 256 + len.toNat % 256 = len.toNat

/-! ## Host bus -/

/-- R70: a CSR read returns the register, a read of CMD or of a reserved index 0, and changes nothing else. In a state that
meets the invariant, a busy unit's status register reads BUSY alone. -/
def Obligations.CsrReadReturnsTheRegister : Prop :=
  ∀ (offset : Half) (wdata : Word) (s : State),
    exec (.csrr offset wdata) s = .next { s with env := { s.env with responses := s.env.responses ++ [
      if offset = 0 then 0
      else if offset = 1 then s.encLen.setWidth 32
      else if offset = 2 then
        (s.enc.code.bits.setWidth 32) <<< 4 ||| (if s.enc.done then (1 : Word) else 0) <<< 1 |||
          (if s.enc.state ≠ .eIdle then (1 : Word) else 0)
      else if offset = 3 then s.enc.count.setWidth 32
      else if offset = 4 then s.decCap.setWidth 32
      else if offset = 5 then
        (s.dec.code.bits.setWidth 32) <<< 4 ||| (if s.dec.done then (1 : Word) else 0) <<< 1 |||
          (if s.dec.state ≠ .dIdle then (1 : Word) else 0)
      else if offset = 6 then (if s.dec.lenValid then (1 : Word) else 0) <<< 16 ||| s.dec.len.setWidth 32
      else if offset = 7 then s.dec.count.setWidth 32
      else if offset = 8 then (if s.dec.chkValid then (1 : Word) else 0) <<< 8 ||| s.dec.chk.setWidth 32
      else if offset = 9 then s.errf.setWidth 32
      else (0 : Word)] } } ∧
    (Inv s →
      (s.dec.state ≠ .dIdle → exec (.csrr 5 wdata) s =
        .next { s with env := { s.env with responses := s.env.responses ++ [1] } }) ∧
      (s.enc.state ≠ .eIdle → exec (.csrr 2 wdata) s =
        .next { s with env := { s.env with responses := s.env.responses ++ [1] } }))

/-- R71: a CSR write is a command at CMD, stores ENC_LEN and DEC_CAP (the least of WDATA[15:0] and OBUF_SIZE), clears
ERRF bits by writing 1, and at every other index only sets BAD_ACCESS. -/
def Obligations.CsrWriteStoresClearsOrFlags : Prop :=
  ∀ (offset : Half) (wdata : Word) (s : State),
    exec (.csrw offset wdata) s =
      if offset = 0 then exec (decode (.cmd32 wdata)) s
      else if offset = 1 then .next { s with encLen := BitVec.ofNat 16 (wdata.toNat % 65536) }
      else if offset = 4 then
        .next { s with decCap := BitVec.ofNat 16 (min (wdata.toNat % 65536) s.params.obufSize.toNat) }
      else if offset = 9 then .next { s with errf := s.errf &&& ~~~(BitVec.ofNat 5 (wdata.toNat % 32)) }
      else .next { s with errf := s.errf ||| 0b10000 }

/-- R72: a write to CMD is the command its whole word names. -/
def Obligations.CommandWriteRunsTheCommand : Prop :=
  ∀ (w : Word) (s : State),
    exec (.csrw 0 w) s =
      if w = 0 then exec .nop s
      else if w = 1 then exec .encode s
      else if w = 2 then exec .decode s
      else exec (.cmdRsvd w) s

/-- R73, R74: NOP changes nothing, busy units or not; a reserved command sets RSVD_CMD and nothing else. -/
def Obligations.NopAndReservedCommandStartNothing : Prop :=
  ∀ (w : Word) (s : State),
    exec .nop s = .next s ∧ exec (.cmdRsvd w) s = .next { s with errf := s.errf ||| 0b01000 }

/-- R75: an EBUF read returns the byte, zero-extended, or 0 at the reserved offset, at any time. -/
def Obligations.EbufReadReturnsTheByte : Prop :=
  ∀ (offset : Half) (wdata : Word) (s : State),
    exec (.ebr offset wdata) s = .next { s with env := { s.env with responses := s.env.responses ++
      [if offset = 0xFFFF then 0 else (s.ebufByte offset.toNat).setWidth 32] } }

/-- R76: an EBUF write sets BAD_ACCESS at the reserved offset, else EBUF_WR_BUSY while the encoder is busy, else it stores
WDATA[7:0] at its offset, and every other byte of memory and the rest of the machine stay. -/
def Obligations.EbufWriteStoresOrFlags : Prop :=
  ∀ (offset : Half) (wdata : Word) (s : State),
    (offset = 0xFFFF → exec (.ebw offset wdata) s = .next { s with errf := s.errf ||| 0b10000 }) ∧
    (offset ≠ 0xFFFF → s.enc.state ≠ .eIdle →
      exec (.ebw offset wdata) s = .next { s with errf := s.errf ||| 0b00100 }) ∧
    (offset ≠ 0xFFFF → s.enc.state = .eIdle →
      ∃ t, exec (.ebw offset wdata) s = .next t ∧ t = { s with ebuf := t.ebuf } ∧
        ∀ a, t.ebufByte a = if a = offset.toNat then BitVec.ofNat 8 (wdata.toNat % 256) else s.ebufByte a)

/-- R39: a byte written to EBUF while the encoder is idle is what the next EBUF read of its offset returns. -/
def Obligations.EbufWriteReadsBack : Prop :=
  ∀ (offset : Half) (wdata wdata' : Word) (s : State), offset ≠ 0xFFFF → s.encBusy = false →
    ∃ t u, exec (.ebw offset wdata) s = .next t ∧ exec (.ebr offset wdata') t = .next u ∧
      u.env.responses = s.env.responses ++ [BitVec.ofNat 32 (wdata.toNat % 256)]

/-- R77: an OBUF read returns the byte below OBUF_SIZE and 0 from there on, at any time. -/
def Obligations.ObufReadReturnsTheByte : Prop :=
  ∀ (offset : Half) (wdata : Word) (s : State),
    exec (.obr offset wdata) s = .next { s with env := { s.env with responses := s.env.responses ++
      [if offset.toNat < s.params.obufSize.toNat then (s.obufByte offset.toNat).setWidth 32 else 0] } }

/-- R78, R79, R80: a write to the OBUF space and a reserved write set BAD_ACCESS and do nothing else; a reserved read
returns 0. -/
def Obligations.ReservedRequestsAreIgnored : Prop :=
  ∀ (rsv : BitVec 13) (space : BitVec 2) (offset : Half) (wdata : Word) (s : State),
    exec (.obw offset wdata) s = .next { s with errf := s.errf ||| 0b10000 } ∧
    exec (.rsvr rsv space offset wdata) s =
      .next { s with env := { s.env with responses := s.env.responses ++ [0] } } ∧
    exec (.rsvw rsv space offset wdata) s = .next { s with errf := s.errf ||| 0b10000 }

/-- R81: every host request answers a next state and sets at most one ERRF bit, the first of the four checks that
applies; a refused request changes nothing else, and one that passes every check sets no bit. -/
def Obligations.OneRefusalBitPerRequest : Prop :=
  ∀ (rw : BitVec 1) (space : BitVec 2) (rsv : BitVec 13) (offset : Half) (wdata : Word) (s : State),
    ∃ t, exec (decode (.hbr64 (hbr64 rw space rsv offset wdata))) s = .next t ∧
      if rw = 0 then t.errf = s.errf
      else if rsv ≠ 0 ∨ space = 3 then t = { s with errf := s.errf ||| 0b10000 }
      else if (space = 0 ∧ offset ≠ 0 ∧ offset ≠ 1 ∧ offset ≠ 4 ∧ offset ≠ 9) ∨ (space = 1 ∧ offset = 0xFFFF) ∨ space = 2 then
        t = { s with errf := s.errf ||| 0b10000 }
      else if space = 0 ∧ offset = 0 ∧ wdata ≠ 0 ∧ wdata ≠ 1 ∧ wdata ≠ 2 then t = { s with errf := s.errf ||| 0b01000 }
      else if space = 0 ∧ offset = 0 ∧ wdata = 1 ∧ s.encBusy = true then t = { s with errf := s.errf ||| 0b00001 }
      else if space = 0 ∧ offset = 0 ∧ wdata = 2 ∧ s.decBusy = true then t = { s with errf := s.errf ||| 0b00010 }
      else if space = 1 ∧ s.encBusy = true then t = { s with errf := s.errf ||| 0b00100 }
      else ∀ k : Nat, t.errf.getLsbD k = true → s.errf.getLsbD k = true

/-- R48: a host read only answers. Everything else stays, every byte of memory too, and the same read repeated answers
the same value. This is the frame of CSRR, EBR, OBR and RSVR. -/
def Obligations.HostReadsHaveNoSideEffect : Prop :=
  ∀ (i : Instr) (offset : Half) (wdata : Word) (rsv : BitVec 13) (space : BitVec 2) (s : State),
    i = .csrr offset wdata ∨ i = .ebr offset wdata ∨ i = .obr offset wdata ∨ i = .rsvr rsv space offset wdata →
    ∃ t u v, exec i s = .next t ∧ t.env.responses = s.env.responses ++ [v] ∧
      t = { s with env := { s.env with responses := t.env.responses } } ∧ SameBytes s t ∧
      exec i t = .next u ∧ u.env.responses = t.env.responses ++ [v]

/-- R48, R71, R73, R74, R76, R78, R80: the frame of the host writes that are no command of a unit: CSRW to an index other
than CMD, EBW, OBW, RSVW, NOP and CMD_RSVD. The units, the parameters and the environment stay; ENC_LEN, DEC_CAP
and EBUF change only by the write that names them, EBUF only at its offset; the two busy-command flags are never set. -/
def Obligations.HostWriteFrame : Prop :=
  ∀ (i : Instr) (offset : Half) (wdata : Word) (rsv : BitVec 13) (space : BitVec 2) (s t : State),
    (i = .csrw offset wdata ∧ offset ≠ 0) ∨ i = .ebw offset wdata ∨ i = .obw offset wdata ∨
      i = .rsvw rsv space offset wdata ∨ i = .nop ∨ i = .cmdRsvd wdata →
    exec i s = .next t →
    t.params = s.params ∧ t.dec = s.dec ∧ t.enc = s.enc ∧ t.env = s.env ∧ t.resets = s.resets ∧
    (i ≠ .csrw 1 wdata → t.encLen = s.encLen) ∧ (i ≠ .csrw 4 wdata → t.decCap = s.decCap) ∧
    (i = .nop → t.errf = s.errf) ∧ (i ≠ .csrw 9 wdata → t.errf &&& 0b00011 = s.errf &&& 0b00011) ∧
    ∀ a, t.pbufByte a = s.pbufByte a ∧ t.obufByte a = s.obufByte a ∧
      (¬ (i = .ebw offset wdata ∧ a = offset.toNat) → t.ebufByte a = s.ebufByte a)

/-- R25: an ERRF bit that is set stays set through every event but a write to ERRF with a 1 there, and RESET. -/
def Obligations.ErrorFlagsAreSticky : Prop :=
  ∀ (i : Instr) (s t : State) (k : Nat), exec i s = .next t → s.errf.getLsbD k = true → t.errf.getLsbD k = false →
    i = .reset ∨ ∃ wdata : Word, i = .csrw 9 wdata ∧ wdata.getLsbD k = true

/-! ## Decoder -/

/-- R85: DECODE on a busy decoder sets DEC_BUSY_CMD and nothing else; on an idle one it latches DEC_CAP, clears the last
result and expects START, and nothing else changes, OBUF and PBUF neither. -/
def Obligations.DecodeStartsOrIsDropped : Prop :=
  ∀ s : State,
    (s.dec.state ≠ .dIdle → exec .decode s = .next { s with errf := s.errf ||| 0b00010 }) ∧
    (s.dec.state = .dIdle → exec .decode s = .next { s with
      dec :=
        { state := .dHdr, cap := s.decCap, lenhi := 0, len := 0, lenValid := false, idx := 0, count := 0, chk := 0,
          chkValid := false, done := false, code := .ok } })

/-- R86, R87: what one data byte does in each state of a busy decoder. In D_PAY the byte's place must exist in PBUF, and in D_CHK
the latched capacity must be legal: `Inv` gives both. D_CHK ends the decode in the same event, as R87 says. -/
def Obligations.ReceivedByteAdvancesTheParser : Prop :=
  ∀ (b : Byte) (s : State),
    (s.dec.state = .dHdr → exec (.rxByte b) s = .next { s with
      dec := if b = 0x02 then { s.dec with count := s.dec.count + 1, state := .dLenhi }
        else { s.dec with count := s.dec.count + 1, state := .dIdle, done := true, code := .malformedHeader } }) ∧
    (s.dec.state = .dLenhi → exec (.rxByte b) s = .next { s with
      dec := { s.dec with count := s.dec.count + 1, lenhi := b, state := .dLenlo } }) ∧
    (s.dec.state = .dLenlo → exec (.rxByte b) s = .next { s with
      dec := { s.dec with
        count := s.dec.count + 1, len := BitVec.ofNat 16 (s.dec.lenhi.toNat * 256 + b.toNat), lenValid := true, idx := 0,
        state := if s.dec.lenhi.toNat * 256 + b.toNat = 0 then .dTrl else .dPay } }) ∧
    (s.dec.state = .dPay → s.dec.idx.toNat < 65535 →
      ∃ t, exec (.rxByte b) s = .next t ∧
        t = { s with
          pbuf := t.pbuf,
          dec := { s.dec with
            count := s.dec.count + 1, idx := s.dec.idx + 1,
            state := if s.dec.idx + 1 = s.dec.len then .dTrl else .dPay } } ∧
        ∀ a, t.pbufByte a = if a = s.dec.idx.toNat then b else s.pbufByte a) ∧
    (s.dec.state = .dTrl → exec (.rxByte b) s = .next { s with
      dec := if b = 0x03 then { s.dec with count := s.dec.count + 1, state := .dChk }
        else { s.dec with count := s.dec.count + 1, state := .dIdle, done := true, code := .malformedTrailer } }) ∧
    (s.dec.state = .dChk → s.dec.cap.toNat ≤ s.params.obufSize.toNat →
      ∃ t, exec (.rxByte b) s = .next t ∧
        t = { s with
          obuf := t.obuf,
          dec := { s.dec with
            count := s.dec.count + 1, chk := b, chkValid := true, state := .dIdle, done := true,
            code :=
              if chkAccept s.params ((List.range s.dec.len.toNat).map s.pbufByte) b = false then .checksumMismatch
              else if s.dec.cap.toNat < s.dec.len.toNat then .bufferTooSmall
              else .ok } } ∧
        ∀ a, t.obufByte a =
          if chkAccept s.params ((List.range s.dec.len.toNat).map s.pbufByte) b = true ∧
            a < min s.dec.cap.toNat s.dec.len.toNat
          then s.pbufByte a else s.obufByte a)

/-- R87, R111, R120: the final event. A byte the policy rejects gives ChecksumMismatch and OBUF stays; else the first
min(d_cap, d_len) payload bytes are in OBUF, the rest of OBUF stays, and the code is BufferTooSmall exactly when the
capacity is less than LENGTH. Under PLACEHOLDER the byte is never rejected. -/
def Obligations.FinalEventChecksCopiesAndFinishes : Prop :=
  ∀ (b : Byte) (s : State), s.dec.state = .dChk → s.dec.cap.toNat ≤ s.params.obufSize.toNat →
    ∃ t, exec (.rxByte b) s = .next t ∧ t.dec.state = .dIdle ∧ t.dec.done = true ∧ t.dec.chk = b ∧ t.dec.chkValid = true ∧
      (chkAccept s.params ((List.range s.dec.len.toNat).map s.pbufByte) b = false →
        t.dec.code = .checksumMismatch ∧ ∀ a, t.obufByte a = s.obufByte a) ∧
      (chkAccept s.params ((List.range s.dec.len.toNat).map s.pbufByte) b = true →
        t.dec.code = (if s.dec.cap.toNat < s.dec.len.toNat then .bufferTooSmall else .ok) ∧
        ∀ a, t.obufByte a =
          if a < min s.dec.cap.toNat s.dec.len.toNat then s.pbufByte a else s.obufByte a) ∧
      (s.params.policy = .placeholder → t.dec.code ≠ .checksumMismatch)

/-- R88, R112, R116: EXHAUSTED ends a busy decode with the structural failure of its step; the count and the other
progress registers stay. -/
def Obligations.ExhaustedGivesTheStructuralFailure : Prop :=
  ∀ (data : Byte) (s : State), s.dec.state ≠ .dIdle →
    exec (.rxExhausted data) s = .next { s with
      dec := { s.dec with
        state := .dIdle, done := true,
        code := match s.dec.state with
          | .dIdle => s.dec.code
          | .dHdr => .malformedHeader
          | .dLenhi => .malformedLength
          | .dLenlo => .malformedLength
          | .dPay => .malformedPayload
          | .dTrl => .malformedTrailer
          | .dChk => .missingChecksum } }

/-- R89, R90, R116: FAULT and TIMEOUT end a busy decode with ReadFailure and ReadTimeout, whatever the step; nothing
else changes. -/
def Obligations.ReadFailuresPassThrough : Prop :=
  ∀ (data : Byte) (s : State), s.dec.state ≠ .dIdle →
    exec (.rxFault data) s = .next { s with dec := { s.dec with state := .dIdle, done := true, code := .readFailure } } ∧
    exec (.rxTimeout data) s = .next { s with dec := { s.dec with state := .dIdle, done := true, code := .readTimeout } }

/-- R84: the decoder walks its fields in order and never goes back. After a symbol a busy decoder is idle, or at the
next field, or at the payload still. -/
def Obligations.DecoderFieldsGoInOrder : Prop :=
  ∀ (i : Instr) (s t : State), i.IsSymbol → exec i s = .next t → s.decBusy = true →
    t.dec.state = .dIdle ∨
    (s.dec.state = .dHdr ∧ t.dec.state = .dLenhi) ∨
    (s.dec.state = .dLenhi ∧ t.dec.state = .dLenlo) ∨
    (s.dec.state = .dLenlo ∧ t.dec.len ≠ 0 ∧ t.dec.state = .dPay) ∨
    (s.dec.state = .dLenlo ∧ t.dec.len = 0 ∧ t.dec.state = .dTrl) ∨
    (s.dec.state = .dPay ∧ t.dec.idx = s.dec.idx + 1 ∧ t.dec.idx ≠ t.dec.len ∧ t.dec.state = .dPay) ∨
    (s.dec.state = .dPay ∧ t.dec.idx = t.dec.len ∧ t.dec.state = .dTrl) ∨
    (s.dec.state = .dTrl ∧ t.dec.state = .dChk)

/-- R94: a DECODE that meets a byte other than START ends in MalformedHeader after that one byte, wherever the stream
stands, so the next symbol is left. -/
def Obligations.WrongFirstByteEndsTheDecode : Prop :=
  ∀ (b : Byte) (s : State), s.decBusy = false → b ≠ 0x02 →
    ∃ t, execAll [.decode, .rxByte b] s = .next t ∧ t.csrRead 5 = 0x12 ∧ t.csrRead 7 = 1 ∧ t.csrRead 6 = 0 ∧
      ∀ a, t.obufByte a = s.obufByte a

/-- R116, R118, R126: the frame of DECODE and the RX symbols. The encoder, ENC_LEN, DEC_CAP, the parameters, the
environment and EBUF stay; ERRF changes only by a dropped DECODE, at its bit; PBUF only at d_idx by a byte in
D_PAY; OBUF only below min(d_cap, d_len) by a byte in D_CHK. -/
def Obligations.DecoderEventFrame : Prop :=
  ∀ (i : Instr) (s t : State), i = .decode ∨ i.IsSymbol → exec i s = .next t →
    t.enc = s.enc ∧ t.encLen = s.encLen ∧ t.decCap = s.decCap ∧ t.params = s.params ∧ t.env = s.env ∧
    t.resets = s.resets ∧
    (¬ (i = .decode ∧ s.decBusy = true) → t.errf = s.errf) ∧ t.errf &&& 0b11101 = s.errf &&& 0b11101 ∧
    ∀ a, t.ebufByte a = s.ebufByte a ∧
      (¬ (∃ b, i = .rxByte b ∧ s.dec.state = .dPay ∧ a = s.dec.idx.toNat) → t.pbufByte a = s.pbufByte a) ∧
      (¬ (∃ b, i = .rxByte b ∧ s.dec.state = .dChk ∧ a < min s.dec.cap.toNat s.dec.len.toNat) →
        t.obufByte a = s.obufByte a)

/-- R32, R137: OBUF changes only at the final event of a decode, below its copy length, or by RESET. -/
def Obligations.ObufChangesOnlyAtTheFinalEvent : Prop :=
  ∀ (i : Instr) (s t : State) (a : Nat), exec i s = .next t → t.obufByte a ≠ s.obufByte a →
    i = .reset ∨ (∃ b, i = .rxByte b) ∧ s.dec.state = .dChk ∧ a < min s.dec.cap.toNat s.dec.len.toNat

/-- R93, the round trip: the frame of any payload that fits the capacity decodes OK, to that payload and its length. -/
def Obligations.FrameDecodesToItsPayload : Prop :=
  ∀ (payload : List Byte) (s : State), payload.length ≤ 65535 → s.decBusy = false →
    payload.length ≤ s.decCap.toNat → s.decCap.toNat ≤ s.params.obufSize.toNat →
    ∃ t, execAll (.decode :: (frame s.params payload).map .rxByte) s = .next t ∧
      t.csrRead 5 = 2 ∧ t.dec.lenValid = true ∧ t.dec.len.toNat = payload.length ∧
      t.dec.count.toNat = 5 + payload.length ∧
      ∀ i (h : i < payload.length), t.obufByte i = payload[i]

/-! ## Encoder -/

/-- R98: ENCODE on a busy encoder sets ENC_BUSY_CMD and nothing else; on an idle one it latches ENC_LEN, generates the
CHECK byte from EBUF[0..ENC_LEN) and offers START, and nothing else changes. -/
def Obligations.EncodeStartsOrIsDropped : Prop :=
  ∀ s : State,
    (s.enc.state ≠ .eIdle → exec .encode s = .next { s with errf := s.errf ||| 0b00001 }) ∧
    (s.enc.state = .eIdle → exec .encode s = .next { s with
      enc :=
        { state := .eStart, len := s.encLen, idx := 0,
          chk := chkGen s.params ((List.range s.encLen.toNat).map s.ebufByte), count := 0, done := false, code := .ok } })

/-- R99, R97: what ACCEPT does in each state of a busy encoder: the byte of the table goes to the wire, is counted, and
the encoder moves to the next field. In E_PAY the byte's place must exist in EBUF, as `Inv` gives. -/
def Obligations.AcceptedByteAdvancesTheEncoder : Prop :=
  ∀ s : State,
    (s.enc.state = .eStart → exec .txAccept s = .next { s with
      enc := { s.enc with count := s.enc.count + 1, state := .eLenhi },
      env := { s.env with wire := s.env.wire ++ [0x02] } }) ∧
    (s.enc.state = .eLenhi → exec .txAccept s = .next { s with
      enc := { s.enc with count := s.enc.count + 1, state := .eLenlo },
      env := { s.env with wire := s.env.wire ++ [BitVec.ofNat 8 (s.enc.len.toNat / 256)] } }) ∧
    (s.enc.state = .eLenlo → exec .txAccept s = .next { s with
      enc := { s.enc with count := s.enc.count + 1, state := if s.enc.len = 0 then .eEnd else .ePay },
      env := { s.env with wire := s.env.wire ++ [BitVec.ofNat 8 (s.enc.len.toNat % 256)] } }) ∧
    (s.enc.state = .ePay → s.enc.idx.toNat < 65535 → exec .txAccept s = .next { s with
      enc := { s.enc with
        count := s.enc.count + 1, idx := s.enc.idx + 1, state := if s.enc.idx + 1 = s.enc.len then .eEnd else .ePay },
      env := { s.env with wire := s.env.wire ++ [s.ebufByte s.enc.idx.toNat] } }) ∧
    (s.enc.state = .eEnd → exec .txAccept s = .next { s with
      enc := { s.enc with count := s.enc.count + 1, state := .eChk },
      env := { s.env with wire := s.env.wire ++ [0x03] } }) ∧
    (s.enc.state = .eChk → exec .txAccept s = .next { s with
      enc := { s.enc with count := s.enc.count + 1, state := .eIdle, done := true, code := .ok },
      env := { s.env with wire := s.env.wire ++ [s.enc.chk] } })

/-- R100, R101, R102, R117: ZERO, FAULT and TIMEOUT end a busy encode with IncompleteWrite, WriteFailure and WriteTimeout;
the count stays, the byte is not written, and nothing else changes. -/
def Obligations.FailedResponseEndsTheEncode : Prop :=
  ∀ s : State, s.enc.state ≠ .eIdle →
    exec .txZero s = .next { s with enc := { s.enc with state := .eIdle, done := true, code := .incompleteWrite } } ∧
    exec .txFault s = .next { s with enc := { s.enc with state := .eIdle, done := true, code := .writeFailure } } ∧
    exec .txTimeout s = .next { s with enc := { s.enc with state := .eIdle, done := true, code := .writeTimeout } }

/-- R97: the byte that each state offers, and that a busy encoder offers the frame byte at e_count, the frame being that of
EBUF[0..e_len). An idle encoder offers nothing (R96). -/
def Obligations.OfferedByteIsTheFrameByte : Prop :=
  ∀ s : State,
    (s.enc.state = .eIdle → s.emit = none) ∧
    (s.enc.state = .eStart → s.emit = some 0x02) ∧
    (s.enc.state = .eLenhi → s.emit = some (BitVec.ofNat 8 (s.enc.len.toNat / 256))) ∧
    (s.enc.state = .eLenlo → s.emit = some (BitVec.ofNat 8 (s.enc.len.toNat % 256))) ∧
    (s.enc.state = .ePay → s.emit = some (s.ebufByte s.enc.idx.toNat)) ∧
    (s.enc.state = .eEnd → s.emit = some 0x03) ∧
    (s.enc.state = .eChk → s.emit = some s.enc.chk) ∧
    (Inv s → s.encBusy = true →
      s.enc.count.toNat < 5 + s.enc.len.toNat ∧
      s.emit = (frame s.params ((List.range s.enc.len.toNat).map s.ebufByte))[s.enc.count.toNat]?)

/-- R97, R117, R118, R126: the frame of ENCODE and the TX responses. The decoder, ENC_LEN, DEC_CAP, the parameters and every
byte of memory stay; ERRF changes only by a dropped ENCODE, at its bit; of the environment only the wire changes, and
only by ACCEPT. -/
def Obligations.EncoderEventFrame : Prop :=
  ∀ (i : Instr) (s t : State), i = .encode ∨ i.IsResponse → exec i s = .next t →
    t.dec = s.dec ∧ t.encLen = s.encLen ∧ t.decCap = s.decCap ∧ t.params = s.params ∧ t.resets = s.resets ∧
    t.env = { s.env with wire := t.env.wire } ∧ (i ≠ .txAccept → t.env = s.env) ∧
    (¬ (i = .encode ∧ s.encBusy = true) → t.errf = s.errf) ∧ t.errf &&& 0b11110 = s.errf &&& 0b11110 ∧
    SameBytes s t

/-- R103: an ENCODE on an idle encoder followed by 5 + L acceptances puts exactly the frame of EBUF[0..L) on the wire and
finishes OK with ENC_COUNT = 5 + L. -/
def Obligations.AcceptingSinkReceivesTheFrame : Prop :=
  ∀ s : State, s.encBusy = false →
    ∃ t, execAll (.encode :: List.replicate (5 + s.encLen.toNat) .txAccept) s = .next t ∧
      t.env.wire = s.env.wire ++
        ([0x02, BitVec.ofNat 8 (s.encLen.toNat / 256), BitVec.ofNat 8 (s.encLen.toNat % 256)] ++
          (List.range s.encLen.toNat).map s.ebufByte ++
          [0x03, chkGen s.params ((List.range s.encLen.toNat).map s.ebufByte)]) ∧
      t.csrRead 2 = 2 ∧ t.enc.count.toNat = 5 + s.encLen.toNat

/-- R104: when the sink stops accepting before the last byte, it has exactly the first ENC_COUNT bytes of the frame, and
the code is that of its last response. -/
def Obligations.FailedEncodeLeavesACutOffFrame : Prop :=
  ∀ (s : State) (k : Nat) (i : Instr), s.encBusy = false → k < 5 + s.encLen.toNat →
    i = .txZero ∨ i = .txFault ∨ i = .txTimeout →
    ∃ t, execAll (.encode :: (List.replicate k .txAccept ++ [i])) s = .next t ∧
      t.env.wire = s.env.wire ++ (frame s.params ((List.range s.encLen.toNat).map s.ebufByte)).take k ∧
      t.enc.count.toNat = k ∧ t.encBusy = false ∧ t.enc.done = true ∧
      t.enc.code = (if i = .txZero then .incompleteWrite else if i = .txFault then .writeFailure else .writeTimeout)

/-- R103, R104, R54: whatever other events come between, the sink has accepted exactly the first ENC_COUNT bytes of the frame
made of ENC_LEN and EBUF as they stood at ENCODE issue. That is the whole frame when the encode finished OK, and less
when it failed. -/
def Obligations.WireCarriesTheFrameOfTheIssue : Prop :=
  ∀ (is : List Instr) (s t : State), s.encBusy = false → (∀ i ∈ is, i ≠ .reset ∧ ¬ i.IsEncode) →
    execAll (.encode :: is) s = .next t →
    t.env.wire = s.env.wire ++
      (frame s.params ((List.range s.encLen.toNat).map s.ebufByte)).take t.enc.count.toNat ∧
    t.enc.len = s.encLen ∧ (t.encBusy = false → t.enc.done = true) ∧
    (t.enc.done = true → t.encBusy = false ∧
      (t.enc.code = .ok → t.enc.count.toNat = 5 + s.encLen.toNat) ∧
      (t.enc.code ≠ .ok → t.enc.count.toNat < 5 + s.encLen.toNat ∧
        (t.enc.code = .incompleteWrite ∨ t.enc.code = .writeFailure ∨ t.enc.code = .writeTimeout)))

/-- R54, R76: while the encoder is busy no event but RESET changes a byte of EBUF. -/
def Obligations.EbufIsFixedWhileEncoding : Prop :=
  ∀ (i : Instr) (s t : State), s.encBusy = true → i ≠ .reset → exec i s = .next t →
    ∀ a, t.ebufByte a = s.ebufByte a

/-! ## Checksum policy -/

/-- R108, R110: the default instance uses PLACEHOLDER, which generates the constant CHECK_PLACEHOLDER and accepts every byte;
and every policy accepts the byte it generates (log 4). -/
def Obligations.PolicyAcceptsWhatItGenerates : Prop :=
  Params.standard.policy = .placeholder ∧
  (∀ (p : Params) (payload : List Byte) (c : Byte), p.policy = .placeholder →
    chkGen p payload = p.checkPlaceholder ∧ chkAccept p payload c = true) ∧
  ∀ (p : Params) (payload : List Byte), chkAccept p payload (chkGen p payload) = true

/-- R105, R110: the policies of the model are all that the spec allows. For every pair of functions that meets R110 on
payloads of at most 65535 bytes, some instance has exactly them (log 4). -/
def Obligations.EveryPolicyIsSomeInstances : Prop :=
  ∀ (gen : List Byte → Byte) (accept : List Byte → Byte → Bool),
    (∀ payload, payload.length ≤ 65535 → accept payload (gen payload) = true) →
    ∃ q : Policy, ∀ p : Params, p.policy = q → ∀ payload : List Byte, payload.length ≤ 65535 →
      chkGen p payload = gen payload ∧ ∀ c, chkAccept p payload c = accept payload c

/-! ## The whole machine -/

/-- R51, R121: the result of a unit stays until its next command or RESET. While the decoder is idle its variables and OBUF
change only by DECODE and RESET, while the encoder is idle its variables only by ENCODE and RESET. For a symbol or a
response on an idle unit, which the spec says does not happen, this is the model's choice (log 8). -/
def Obligations.ResultsStayUntilTheNextCommand : Prop :=
  (∀ (i : Instr) (s t : State), s.decBusy = false → ¬ i.IsDecode → i ≠ .reset → exec i s = .next t →
    t.dec = s.dec ∧ ∀ a, t.obufByte a = s.obufByte a) ∧
  ∀ (i : Instr) (s t : State), s.encBusy = false → ¬ i.IsEncode → i ≠ .reset → exec i s = .next t → t.enc = s.enc

/-- R83, R96, R139: only a symbol or RESET moves a busy decoder, only a response or RESET a busy encoder. So nothing inside
FRC ends a wait. -/
def Obligations.OnlyTheEnvironmentEndsAWait : Prop :=
  (∀ (i : Instr) (s t : State), s.decBusy = true → exec i s = .next t → t.dec ≠ s.dec → i.IsSymbol ∨ i = .reset) ∧
  ∀ (i : Instr) (s t : State), s.encBusy = true → exec i s = .next t → t.enc ≠ s.enc → i.IsResponse ∨ i = .reset

/-- R18, R19, R21, R22, R23, R24: what the read-only registers show in a state that meets the invariant: a busy unit's STATUS
reads 1, a finished unit's DONE and CODE, and one that has finished nothing 0; the counts are at most 65540; LEN and CHK
are 0 until valid. -/
def Obligations.StatusRegistersShowTheUnits : Prop :=
  ∀ s : State, Inv s →
    s.csrRead 5 = (if s.decBusy then (1 : Word) else if s.dec.done then (2 : Word) ||| (s.dec.code.bits.setWidth 32 <<< 4) else 0) ∧
    s.csrRead 2 = (if s.encBusy then (1 : Word) else if s.enc.done then (2 : Word) ||| (s.enc.code.bits.setWidth 32 <<< 4) else 0) ∧
    (s.csrRead 7).toNat ≤ 65540 ∧ (s.csrRead 3).toNat ≤ 65540 ∧
    (s.dec.lenValid = false → s.csrRead 6 = 0) ∧ (s.dec.chkValid = false → s.csrRead 8 = 0) ∧
    (s.csrRead 4).toNat ≤ s.params.obufSize.toNat

/-- R92, R114: what the event that ends a decode, or an encode, leaves recorded with each code, from a state that meets the
invariant; and the encoder never shows a decoder's code, nor the decoder an encoder's. -/
def Obligations.FinishingEventRecordsTheOutcome : Prop :=
  ∀ (i : Instr) (s t : State), Inv s → exec i s = .next t →
    (s.decBusy = true → t.dec.done = true →
      (t.dec.code = .ok → t.dec.count.toNat = 5 + t.dec.len.toNat ∧ t.dec.lenValid = true ∧
        t.dec.len.toNat ≤ t.dec.cap.toNat) ∧
      (t.dec.code = .malformedHeader → t.dec.count.toNat = (match i with | .rxByte _ => 1 | _ => 0)) ∧
      (t.dec.code = .malformedLength → t.dec.lenValid = false ∧ (t.dec.count.toNat = 1 ∨ t.dec.count.toNat = 2)) ∧
      (t.dec.code = .malformedPayload → t.dec.lenValid = true ∧ t.dec.count.toNat = 3 + t.dec.idx.toNat ∧
        t.dec.idx.toNat < t.dec.len.toNat) ∧
      (t.dec.code = .malformedTrailer → t.dec.lenValid = true ∧
        t.dec.count.toNat = (match i with | .rxByte _ => 4 | _ => 3) + t.dec.len.toNat) ∧
      (t.dec.code = .missingChecksum → t.dec.chkValid = false ∧ t.dec.count.toNat = 4 + t.dec.len.toNat) ∧
      (t.dec.code = .bufferTooSmall → t.dec.cap.toNat < t.dec.len.toNat ∧ t.dec.count.toNat = 5 + t.dec.len.toNat) ∧
      (t.dec.code = .readFailure → t.dec.count = s.dec.count) ∧
      (t.dec.code = .readTimeout → t.dec.count = s.dec.count) ∧
      (t.dec.code = .checksumMismatch → t.params.policy ≠ .placeholder ∧ t.dec.chkValid = true ∧
        ∀ a, t.obufByte a = s.obufByte a) ∧
      t.dec.code ≠ .incompleteWrite ∧ t.dec.code ≠ .writeFailure ∧ t.dec.code ≠ .writeTimeout) ∧
    (s.encBusy = true → t.enc.done = true →
      (t.enc.code = .ok → t.enc.count.toNat = 5 + t.enc.len.toNat) ∧
      (t.enc.code ≠ .ok → t.enc.count = s.enc.count ∧ t.enc.count.toNat < 5 + t.enc.len.toNat) ∧
      (t.enc.code = .ok ∨ t.enc.code = .incompleteWrite ∨ t.enc.code = .writeFailure ∨ t.enc.code = .writeTimeout))

/-- R4, R118, R126: the two units do not interfere. DECODE and the symbols do the same whatever the encoder is, and leave it
as it is; ENCODE and the responses do the same whatever the decoder is, and leave it as it is. -/
def Obligations.UnitsDoNotInterfere : Prop :=
  (∀ (i : Instr) (s : State) (e : Encoder), i = .decode ∨ i.IsSymbol →
    match exec i s with
    | .next t => exec i { s with enc := e } = .next { t with enc := e }
    | .fault r => exec i { s with enc := e } = .fault r
    | .refused r => exec i { s with enc := e } = .refused r) ∧
  ∀ (i : Instr) (s : State) (d : Decoder), i = .encode ∨ i.IsResponse →
    match exec i s with
    | .next t => exec i { s with dec := d } = .next { t with dec := d }
    | .fault r => exec i { s with dec := d } = .fault r
    | .refused r => exec i { s with dec := d } = .refused r
end

