-- ==== Sys2Proof/Laws/Decode.lean ====
section
/-! SUPPORT. The fields of the formats: a field read from a word built of fields is that field, and a word built of
its own fields is that word. Both follow from the word's value as a number. -/

namespace Sys2Proof

/-- Two numbers with disjoint bits: their bitwise or is their sum. -/
theorem shift_or_eq_add (a b n : Nat) (h : b < 2 ^ n) : a <<< n ||| b = a * 2 ^ n + b := by
  rw [Nat.shiftLeft_eq, Nat.mul_comm, Nat.two_pow_add_eq_or_of_lt h]

/-- A request word as a number: each field at its place (30 R60). -/
theorem hbr64_toNat (rw : BitVec 1) (sp : BitVec 2) (rsv : BitVec 13) (off : Half) (wd : Word) :
    (hbr64 rw sp rsv off wd).toNat =
      wd.toNat * 2 ^ 32 + off.toNat * 2 ^ 16 + rsv.toNat * 2 ^ 3 + sp.toNat * 2 + rw.toNat := by
  have h0 := rw.isLt
  have h1 := sp.isLt
  have h2 := rsv.isLt
  have h3 := off.isLt
  have h4 := wd.isLt
  have e4 : wd.toNat <<< 32 % 2 ^ 64 = wd.toNat <<< 32 := Nat.mod_eq_of_lt (by rw [Nat.shiftLeft_eq]; omega)
  have e3 : off.toNat <<< 16 % 2 ^ 64 = off.toNat <<< 16 := Nat.mod_eq_of_lt (by rw [Nat.shiftLeft_eq]; omega)
  have e2 : rsv.toNat <<< 3 % 2 ^ 64 = rsv.toNat <<< 3 := Nat.mod_eq_of_lt (by rw [Nat.shiftLeft_eq]; omega)
  have e1 : sp.toNat <<< 1 % 2 ^ 64 = sp.toNat <<< 1 := Nat.mod_eq_of_lt (by rw [Nat.shiftLeft_eq]; omega)
  have m4 : wd.toNat % 2 ^ 64 = wd.toNat := Nat.mod_eq_of_lt (by omega)
  have m3 : off.toNat % 2 ^ 64 = off.toNat := Nat.mod_eq_of_lt (by omega)
  have m2 : rsv.toNat % 2 ^ 64 = rsv.toNat := Nat.mod_eq_of_lt (by omega)
  have m1 : sp.toNat % 2 ^ 64 = sp.toNat := Nat.mod_eq_of_lt (by omega)
  have m0 : rw.toNat % 2 ^ 64 = rw.toNat := Nat.mod_eq_of_lt (by omega)
  simp only [hbr64, BitVec.toNat_or, BitVec.toNat_shiftLeft, BitVec.toNat_setWidth, m0, m1, m2, m3, m4, e1, e2, e3, e4]
  rw [Nat.or_assoc, Nat.or_assoc, Nat.or_assoc, shift_or_eq_add sp.toNat rw.toNat 1 (by omega),
    shift_or_eq_add rsv.toNat _ 3 (by omega), shift_or_eq_add off.toNat _ 16 (by omega),
    shift_or_eq_add wd.toNat _ 32 (by omega)]
  omega

/-- A symbol word as a number (30 R61). -/
theorem rxsym10_toNat (k : BitVec 2) (d : Byte) : (rxsym10 k d).toNat = k.toNat * 2 ^ 8 + d.toNat := by
  have h0 := k.isLt
  have h1 := d.isLt
  have e : k.toNat <<< 8 % 2 ^ 10 = k.toNat <<< 8 := Nat.mod_eq_of_lt (by rw [Nat.shiftLeft_eq]; omega)
  have m0 : k.toNat % 2 ^ 10 = k.toNat := Nat.mod_eq_of_lt (by omega)
  have m1 : d.toNat % 2 ^ 10 = d.toNat := Nat.mod_eq_of_lt (by omega)
  simp only [rxsym10, BitVec.toNat_or, BitVec.toNat_shiftLeft, BitVec.toNat_setWidth, m0, m1, e]
  rw [shift_or_eq_add _ _ 8 (by omega)]

section
variable (rw : BitVec 1) (sp : BitVec 2) (rsv : BitVec 13) (off : Half) (wd : Word)

@[simp] theorem hbrRw_hbr64 : hbrRw (hbr64 rw sp rsv off wd) = rw := by
  apply BitVec.eq_of_toNat_eq
  simp only [hbrRw, BitVec.extractLsb'_toNat, hbr64_toNat, Nat.shiftRight_eq_div_pow]
  omega

@[simp] theorem hbrSpace_hbr64 : hbrSpace (hbr64 rw sp rsv off wd) = sp := by
  apply BitVec.eq_of_toNat_eq
  simp only [hbrSpace, BitVec.extractLsb'_toNat, hbr64_toNat, Nat.shiftRight_eq_div_pow]
  omega

@[simp] theorem hbrRsv_hbr64 : hbrRsv (hbr64 rw sp rsv off wd) = rsv := by
  apply BitVec.eq_of_toNat_eq
  simp only [hbrRsv, BitVec.extractLsb'_toNat, hbr64_toNat, Nat.shiftRight_eq_div_pow]
  omega

@[simp] theorem hbrOffset_hbr64 : hbrOffset (hbr64 rw sp rsv off wd) = off := by
  apply BitVec.eq_of_toNat_eq
  simp only [hbrOffset, BitVec.extractLsb'_toNat, hbr64_toNat, Nat.shiftRight_eq_div_pow]
  omega

@[simp] theorem hbrWdata_hbr64 : hbrWdata (hbr64 rw sp rsv off wd) = wd := by
  apply BitVec.eq_of_toNat_eq
  simp only [hbrWdata, BitVec.extractLsb'_toNat, hbr64_toNat, Nat.shiftRight_eq_div_pow]
  omega

end

/-- A request word is built of its own fields. -/
theorem hbr64_fields (w : BitVec 64) : hbr64 (hbrRw w) (hbrSpace w) (hbrRsv w) (hbrOffset w) (hbrWdata w) = w := by
  apply BitVec.eq_of_toNat_eq
  simp only [hbr64_toNat, hbrRw, hbrSpace, hbrRsv, hbrOffset, hbrWdata, BitVec.extractLsb'_toNat,
    Nat.shiftRight_eq_div_pow]
  omega

@[simp] theorem rxKind_rxsym10 (k : BitVec 2) (d : Byte) : rxKind (rxsym10 k d) = k := by
  apply BitVec.eq_of_toNat_eq
  simp only [rxKind, BitVec.extractLsb'_toNat, rxsym10_toNat, Nat.shiftRight_eq_div_pow]
  omega

@[simp] theorem rxData_rxsym10 (k : BitVec 2) (d : Byte) : rxData (rxsym10 k d) = d := by
  apply BitVec.eq_of_toNat_eq
  simp only [rxData, BitVec.extractLsb'_toNat, rxsym10_toNat, Nat.shiftRight_eq_div_pow]
  omega

/-- A symbol is built of its own fields. -/
theorem rxsym10_fields (w : BitVec 10) : rxsym10 (rxKind w) (rxData w) = w := by
  apply BitVec.eq_of_toNat_eq
  simp only [rxsym10_toNat, rxKind, rxData, BitVec.extractLsb'_toNat, Nat.shiftRight_eq_div_pow]
  omega

/-- RW is 0 or 1. -/
theorem bit_cases (b : BitVec 1) : b = 0 ∨ b = 1 := by revert b; decide

/-- KIND and SPACE are one of four values. -/
theorem two_bit_cases (b : BitVec 2) : b = 0 ∨ b = 1 ∨ b = 2 ∨ b = 3 := by revert b; decide

end Sys2Proof
end

