-- ==== Sys2Proof/Laws/State.lean ====
section
/-! SUPPORT. What each state operation leaves in each field, so that no proof unfolds a record update. -/

namespace Sys2Proof.Machine

variable (s : State)

@[simp] theorem State.setErr_params (e : ErrBit) : (s.setErr e).params = s.params := rfl
@[simp] theorem State.setErr_encLen (e : ErrBit) : (s.setErr e).encLen = s.encLen := rfl
@[simp] theorem State.setErr_decCap (e : ErrBit) : (s.setErr e).decCap = s.decCap := rfl
@[simp] theorem State.setErr_errf (e : ErrBit) : (s.setErr e).errf = s.errf ||| e.mask := rfl
@[simp] theorem State.setErr_dec (e : ErrBit) : (s.setErr e).dec = s.dec := rfl
@[simp] theorem State.setErr_enc (e : ErrBit) : (s.setErr e).enc = s.enc := rfl
@[simp] theorem State.setErr_ebuf (e : ErrBit) : (s.setErr e).ebuf = s.ebuf := rfl
@[simp] theorem State.setErr_pbuf (e : ErrBit) : (s.setErr e).pbuf = s.pbuf := rfl
@[simp] theorem State.setErr_obuf (e : ErrBit) : (s.setErr e).obuf = s.obuf := rfl
@[simp] theorem State.setErr_resets (e : ErrBit) : (s.setErr e).resets = s.resets := rfl
@[simp] theorem State.setErr_env (e : ErrBit) : (s.setErr e).env = s.env := rfl
@[simp] theorem State.setErr_ebufByte (e : ErrBit) (a : Nat) : (s.setErr e).ebufByte a = s.ebufByte a := rfl
@[simp] theorem State.setErr_pbufByte (e : ErrBit) (a : Nat) : (s.setErr e).pbufByte a = s.pbufByte a := rfl
@[simp] theorem State.setErr_obufByte (e : ErrBit) (a : Nat) : (s.setErr e).obufByte a = s.obufByte a := rfl
@[simp] theorem State.setErr_ebufBytes (e : ErrBit) (a : Nat) : (s.setErr e).ebufBytes a = s.ebufBytes a := rfl
@[simp] theorem State.setErr_pbufBytes (e : ErrBit) (a : Nat) : (s.setErr e).pbufBytes a = s.pbufBytes a := rfl
@[simp] theorem State.setErr_decBusy (e : ErrBit) : (s.setErr e).decBusy = s.decBusy := rfl
@[simp] theorem State.setErr_encBusy (e : ErrBit) : (s.setErr e).encBusy = s.encBusy := rfl

@[simp] theorem State.clearErr_params (w : Word) : (s.clearErr w).params = s.params := rfl
@[simp] theorem State.clearErr_encLen (w : Word) : (s.clearErr w).encLen = s.encLen := rfl
@[simp] theorem State.clearErr_decCap (w : Word) : (s.clearErr w).decCap = s.decCap := rfl
@[simp] theorem State.clearErr_errf (w : Word) : (s.clearErr w).errf = s.errf &&& ~~~(w.setWidth 5) := rfl
@[simp] theorem State.clearErr_dec (w : Word) : (s.clearErr w).dec = s.dec := rfl
@[simp] theorem State.clearErr_enc (w : Word) : (s.clearErr w).enc = s.enc := rfl
@[simp] theorem State.clearErr_ebuf (w : Word) : (s.clearErr w).ebuf = s.ebuf := rfl
@[simp] theorem State.clearErr_pbuf (w : Word) : (s.clearErr w).pbuf = s.pbuf := rfl
@[simp] theorem State.clearErr_obuf (w : Word) : (s.clearErr w).obuf = s.obuf := rfl
@[simp] theorem State.clearErr_resets (w : Word) : (s.clearErr w).resets = s.resets := rfl
@[simp] theorem State.clearErr_env (w : Word) : (s.clearErr w).env = s.env := rfl
@[simp] theorem State.clearErr_ebufByte (w : Word) (a : Nat) : (s.clearErr w).ebufByte a = s.ebufByte a := rfl
@[simp] theorem State.clearErr_pbufByte (w : Word) (a : Nat) : (s.clearErr w).pbufByte a = s.pbufByte a := rfl
@[simp] theorem State.clearErr_obufByte (w : Word) (a : Nat) : (s.clearErr w).obufByte a = s.obufByte a := rfl
@[simp] theorem State.clearErr_ebufBytes (w : Word) (a : Nat) : (s.clearErr w).ebufBytes a = s.ebufBytes a := rfl
@[simp] theorem State.clearErr_pbufBytes (w : Word) (a : Nat) : (s.clearErr w).pbufBytes a = s.pbufBytes a := rfl
@[simp] theorem State.clearErr_decBusy (w : Word) : (s.clearErr w).decBusy = s.decBusy := rfl
@[simp] theorem State.clearErr_encBusy (w : Word) : (s.clearErr w).encBusy = s.encBusy := rfl

@[simp] theorem State.storeEbuf_params (i : Nat) (b : Byte) : (s.storeEbuf i b).params = s.params := rfl
@[simp] theorem State.storeEbuf_encLen (i : Nat) (b : Byte) : (s.storeEbuf i b).encLen = s.encLen := rfl
@[simp] theorem State.storeEbuf_decCap (i : Nat) (b : Byte) : (s.storeEbuf i b).decCap = s.decCap := rfl
@[simp] theorem State.storeEbuf_errf (i : Nat) (b : Byte) : (s.storeEbuf i b).errf = s.errf := rfl
@[simp] theorem State.storeEbuf_dec (i : Nat) (b : Byte) : (s.storeEbuf i b).dec = s.dec := rfl
@[simp] theorem State.storeEbuf_enc (i : Nat) (b : Byte) : (s.storeEbuf i b).enc = s.enc := rfl
@[simp] theorem State.storeEbuf_ebuf (i : Nat) (b : Byte) : (s.storeEbuf i b).ebuf = s.ebuf.write i b := rfl
@[simp] theorem State.storeEbuf_pbuf (i : Nat) (b : Byte) : (s.storeEbuf i b).pbuf = s.pbuf := rfl
@[simp] theorem State.storeEbuf_obuf (i : Nat) (b : Byte) : (s.storeEbuf i b).obuf = s.obuf := rfl
@[simp] theorem State.storeEbuf_resets (i : Nat) (b : Byte) : (s.storeEbuf i b).resets = s.resets := rfl
@[simp] theorem State.storeEbuf_env (i : Nat) (b : Byte) : (s.storeEbuf i b).env = s.env := rfl
@[simp] theorem State.storeEbuf_pbufByte (i : Nat) (b : Byte) (a : Nat) : (s.storeEbuf i b).pbufByte a = s.pbufByte a := rfl
@[simp] theorem State.storeEbuf_obufByte (i : Nat) (b : Byte) (a : Nat) : (s.storeEbuf i b).obufByte a = s.obufByte a := rfl
@[simp] theorem State.storeEbuf_pbufBytes (i : Nat) (b : Byte) (a : Nat) : (s.storeEbuf i b).pbufBytes a = s.pbufBytes a := rfl
@[simp] theorem State.storeEbuf_decBusy (i : Nat) (b : Byte) : (s.storeEbuf i b).decBusy = s.decBusy := rfl
@[simp] theorem State.storeEbuf_encBusy (i : Nat) (b : Byte) : (s.storeEbuf i b).encBusy = s.encBusy := rfl

@[simp] theorem State.storePbuf_params (i : Nat) (b : Byte) : (s.storePbuf i b).params = s.params := rfl
@[simp] theorem State.storePbuf_encLen (i : Nat) (b : Byte) : (s.storePbuf i b).encLen = s.encLen := rfl
@[simp] theorem State.storePbuf_decCap (i : Nat) (b : Byte) : (s.storePbuf i b).decCap = s.decCap := rfl
@[simp] theorem State.storePbuf_errf (i : Nat) (b : Byte) : (s.storePbuf i b).errf = s.errf := rfl
@[simp] theorem State.storePbuf_dec (i : Nat) (b : Byte) : (s.storePbuf i b).dec = s.dec := rfl
@[simp] theorem State.storePbuf_enc (i : Nat) (b : Byte) : (s.storePbuf i b).enc = s.enc := rfl
@[simp] theorem State.storePbuf_ebuf (i : Nat) (b : Byte) : (s.storePbuf i b).ebuf = s.ebuf := rfl
@[simp] theorem State.storePbuf_pbuf (i : Nat) (b : Byte) : (s.storePbuf i b).pbuf = s.pbuf.write i b := rfl
@[simp] theorem State.storePbuf_obuf (i : Nat) (b : Byte) : (s.storePbuf i b).obuf = s.obuf := rfl
@[simp] theorem State.storePbuf_resets (i : Nat) (b : Byte) : (s.storePbuf i b).resets = s.resets := rfl
@[simp] theorem State.storePbuf_env (i : Nat) (b : Byte) : (s.storePbuf i b).env = s.env := rfl
@[simp] theorem State.storePbuf_ebufByte (i : Nat) (b : Byte) (a : Nat) : (s.storePbuf i b).ebufByte a = s.ebufByte a := rfl
@[simp] theorem State.storePbuf_obufByte (i : Nat) (b : Byte) (a : Nat) : (s.storePbuf i b).obufByte a = s.obufByte a := rfl
@[simp] theorem State.storePbuf_ebufBytes (i : Nat) (b : Byte) (a : Nat) : (s.storePbuf i b).ebufBytes a = s.ebufBytes a := rfl
@[simp] theorem State.storePbuf_decBusy (i : Nat) (b : Byte) : (s.storePbuf i b).decBusy = s.decBusy := rfl
@[simp] theorem State.storePbuf_encBusy (i : Nat) (b : Byte) : (s.storePbuf i b).encBusy = s.encBusy := rfl

@[simp] theorem State.copyToObuf_params (n : Nat) : (s.copyToObuf n).params = s.params := rfl
@[simp] theorem State.copyToObuf_encLen (n : Nat) : (s.copyToObuf n).encLen = s.encLen := rfl
@[simp] theorem State.copyToObuf_decCap (n : Nat) : (s.copyToObuf n).decCap = s.decCap := rfl
@[simp] theorem State.copyToObuf_errf (n : Nat) : (s.copyToObuf n).errf = s.errf := rfl
@[simp] theorem State.copyToObuf_dec (n : Nat) : (s.copyToObuf n).dec = s.dec := rfl
@[simp] theorem State.copyToObuf_enc (n : Nat) : (s.copyToObuf n).enc = s.enc := rfl
@[simp] theorem State.copyToObuf_ebuf (n : Nat) : (s.copyToObuf n).ebuf = s.ebuf := rfl
@[simp] theorem State.copyToObuf_pbuf (n : Nat) : (s.copyToObuf n).pbuf = s.pbuf := rfl
@[simp] theorem State.copyToObuf_obuf (n : Nat) : (s.copyToObuf n).obuf = copyBytes s.pbufByte n s.obuf := rfl
@[simp] theorem State.copyToObuf_resets (n : Nat) : (s.copyToObuf n).resets = s.resets := rfl
@[simp] theorem State.copyToObuf_env (n : Nat) : (s.copyToObuf n).env = s.env := rfl
@[simp] theorem State.copyToObuf_ebufByte (n : Nat) (a : Nat) : (s.copyToObuf n).ebufByte a = s.ebufByte a := rfl
@[simp] theorem State.copyToObuf_pbufByte (n : Nat) (a : Nat) : (s.copyToObuf n).pbufByte a = s.pbufByte a := rfl
@[simp] theorem State.copyToObuf_ebufBytes (n : Nat) (a : Nat) : (s.copyToObuf n).ebufBytes a = s.ebufBytes a := rfl
@[simp] theorem State.copyToObuf_pbufBytes (n : Nat) (a : Nat) : (s.copyToObuf n).pbufBytes a = s.pbufBytes a := rfl
@[simp] theorem State.copyToObuf_decBusy (n : Nat) : (s.copyToObuf n).decBusy = s.decBusy := rfl
@[simp] theorem State.copyToObuf_encBusy (n : Nat) : (s.copyToObuf n).encBusy = s.encBusy := rfl

@[simp] theorem State.respond_params (w : Word) : (s.respond w).params = s.params := rfl
@[simp] theorem State.respond_encLen (w : Word) : (s.respond w).encLen = s.encLen := rfl
@[simp] theorem State.respond_decCap (w : Word) : (s.respond w).decCap = s.decCap := rfl
@[simp] theorem State.respond_errf (w : Word) : (s.respond w).errf = s.errf := rfl
@[simp] theorem State.respond_dec (w : Word) : (s.respond w).dec = s.dec := rfl
@[simp] theorem State.respond_enc (w : Word) : (s.respond w).enc = s.enc := rfl
@[simp] theorem State.respond_ebuf (w : Word) : (s.respond w).ebuf = s.ebuf := rfl
@[simp] theorem State.respond_pbuf (w : Word) : (s.respond w).pbuf = s.pbuf := rfl
@[simp] theorem State.respond_obuf (w : Word) : (s.respond w).obuf = s.obuf := rfl
@[simp] theorem State.respond_resets (w : Word) : (s.respond w).resets = s.resets := rfl
@[simp] theorem State.respond_env (w : Word) :
    (s.respond w).env =
      { s.env with responses := s.env.responses ++ [w] } := rfl
@[simp] theorem State.respond_ebufByte (w : Word) (a : Nat) : (s.respond w).ebufByte a = s.ebufByte a := rfl
@[simp] theorem State.respond_pbufByte (w : Word) (a : Nat) : (s.respond w).pbufByte a = s.pbufByte a := rfl
@[simp] theorem State.respond_obufByte (w : Word) (a : Nat) : (s.respond w).obufByte a = s.obufByte a := rfl
@[simp] theorem State.respond_ebufBytes (w : Word) (a : Nat) : (s.respond w).ebufBytes a = s.ebufBytes a := rfl
@[simp] theorem State.respond_pbufBytes (w : Word) (a : Nat) : (s.respond w).pbufBytes a = s.pbufBytes a := rfl
@[simp] theorem State.respond_decBusy (w : Word) : (s.respond w).decBusy = s.decBusy := rfl
@[simp] theorem State.respond_encBusy (w : Word) : (s.respond w).encBusy = s.encBusy := rfl

@[simp] theorem State.putWire_params (b : Byte) : (s.putWire b).params = s.params := rfl
@[simp] theorem State.putWire_encLen (b : Byte) : (s.putWire b).encLen = s.encLen := rfl
@[simp] theorem State.putWire_decCap (b : Byte) : (s.putWire b).decCap = s.decCap := rfl
@[simp] theorem State.putWire_errf (b : Byte) : (s.putWire b).errf = s.errf := rfl
@[simp] theorem State.putWire_dec (b : Byte) : (s.putWire b).dec = s.dec := rfl
@[simp] theorem State.putWire_enc (b : Byte) : (s.putWire b).enc = s.enc := rfl
@[simp] theorem State.putWire_ebuf (b : Byte) : (s.putWire b).ebuf = s.ebuf := rfl
@[simp] theorem State.putWire_pbuf (b : Byte) : (s.putWire b).pbuf = s.pbuf := rfl
@[simp] theorem State.putWire_obuf (b : Byte) : (s.putWire b).obuf = s.obuf := rfl
@[simp] theorem State.putWire_resets (b : Byte) : (s.putWire b).resets = s.resets := rfl
@[simp] theorem State.putWire_env (b : Byte) : (s.putWire b).env = { s.env with wire := s.env.wire ++ [b] } := rfl
@[simp] theorem State.putWire_ebufByte (b : Byte) (a : Nat) : (s.putWire b).ebufByte a = s.ebufByte a := rfl
@[simp] theorem State.putWire_pbufByte (b : Byte) (a : Nat) : (s.putWire b).pbufByte a = s.pbufByte a := rfl
@[simp] theorem State.putWire_obufByte (b : Byte) (a : Nat) : (s.putWire b).obufByte a = s.obufByte a := rfl
@[simp] theorem State.putWire_ebufBytes (b : Byte) (a : Nat) : (s.putWire b).ebufBytes a = s.ebufBytes a := rfl
@[simp] theorem State.putWire_pbufBytes (b : Byte) (a : Nat) : (s.putWire b).pbufBytes a = s.pbufBytes a := rfl
@[simp] theorem State.putWire_decBusy (b : Byte) : (s.putWire b).decBusy = s.decBusy := rfl
@[simp] theorem State.putWire_encBusy (b : Byte) : (s.putWire b).encBusy = s.encBusy := rfl

@[simp] theorem State.decFinish_params (c : StatusCode) : (s.decFinish c).params = s.params := rfl
@[simp] theorem State.decFinish_encLen (c : StatusCode) : (s.decFinish c).encLen = s.encLen := rfl
@[simp] theorem State.decFinish_decCap (c : StatusCode) : (s.decFinish c).decCap = s.decCap := rfl
@[simp] theorem State.decFinish_errf (c : StatusCode) : (s.decFinish c).errf = s.errf := rfl
@[simp] theorem State.decFinish_dec (c : StatusCode) :
    (s.decFinish c).dec =
      { s.dec with state := .dIdle, done := true, code := c } := rfl
@[simp] theorem State.decFinish_enc (c : StatusCode) : (s.decFinish c).enc = s.enc := rfl
@[simp] theorem State.decFinish_ebuf (c : StatusCode) : (s.decFinish c).ebuf = s.ebuf := rfl
@[simp] theorem State.decFinish_pbuf (c : StatusCode) : (s.decFinish c).pbuf = s.pbuf := rfl
@[simp] theorem State.decFinish_obuf (c : StatusCode) : (s.decFinish c).obuf = s.obuf := rfl
@[simp] theorem State.decFinish_resets (c : StatusCode) : (s.decFinish c).resets = s.resets := rfl
@[simp] theorem State.decFinish_env (c : StatusCode) : (s.decFinish c).env = s.env := rfl
@[simp] theorem State.decFinish_ebufByte (c : StatusCode) (a : Nat) : (s.decFinish c).ebufByte a = s.ebufByte a := rfl
@[simp] theorem State.decFinish_pbufByte (c : StatusCode) (a : Nat) : (s.decFinish c).pbufByte a = s.pbufByte a := rfl
@[simp] theorem State.decFinish_obufByte (c : StatusCode) (a : Nat) : (s.decFinish c).obufByte a = s.obufByte a := rfl
@[simp] theorem State.decFinish_ebufBytes (c : StatusCode) (a : Nat) : (s.decFinish c).ebufBytes a = s.ebufBytes a := rfl
@[simp] theorem State.decFinish_pbufBytes (c : StatusCode) (a : Nat) : (s.decFinish c).pbufBytes a = s.pbufBytes a := rfl
@[simp] theorem State.decFinish_encBusy (c : StatusCode) : (s.decFinish c).encBusy = s.encBusy := rfl

@[simp] theorem State.encFinish_params (c : StatusCode) : (s.encFinish c).params = s.params := rfl
@[simp] theorem State.encFinish_encLen (c : StatusCode) : (s.encFinish c).encLen = s.encLen := rfl
@[simp] theorem State.encFinish_decCap (c : StatusCode) : (s.encFinish c).decCap = s.decCap := rfl
@[simp] theorem State.encFinish_errf (c : StatusCode) : (s.encFinish c).errf = s.errf := rfl
@[simp] theorem State.encFinish_dec (c : StatusCode) : (s.encFinish c).dec = s.dec := rfl
@[simp] theorem State.encFinish_enc (c : StatusCode) :
    (s.encFinish c).enc =
      { s.enc with state := .eIdle, done := true, code := c } := rfl
@[simp] theorem State.encFinish_ebuf (c : StatusCode) : (s.encFinish c).ebuf = s.ebuf := rfl
@[simp] theorem State.encFinish_pbuf (c : StatusCode) : (s.encFinish c).pbuf = s.pbuf := rfl
@[simp] theorem State.encFinish_obuf (c : StatusCode) : (s.encFinish c).obuf = s.obuf := rfl
@[simp] theorem State.encFinish_resets (c : StatusCode) : (s.encFinish c).resets = s.resets := rfl
@[simp] theorem State.encFinish_env (c : StatusCode) : (s.encFinish c).env = s.env := rfl
@[simp] theorem State.encFinish_ebufByte (c : StatusCode) (a : Nat) : (s.encFinish c).ebufByte a = s.ebufByte a := rfl
@[simp] theorem State.encFinish_pbufByte (c : StatusCode) (a : Nat) : (s.encFinish c).pbufByte a = s.pbufByte a := rfl
@[simp] theorem State.encFinish_obufByte (c : StatusCode) (a : Nat) : (s.encFinish c).obufByte a = s.obufByte a := rfl
@[simp] theorem State.encFinish_ebufBytes (c : StatusCode) (a : Nat) : (s.encFinish c).ebufBytes a = s.ebufBytes a := rfl
@[simp] theorem State.encFinish_pbufBytes (c : StatusCode) (a : Nat) : (s.encFinish c).pbufBytes a = s.pbufBytes a := rfl
@[simp] theorem State.encFinish_decBusy (c : StatusCode) : (s.encFinish c).decBusy = s.decBusy := rfl

@[simp] theorem State.startEncode_params : (s.startEncode).params = s.params := rfl
@[simp] theorem State.startEncode_encLen : (s.startEncode).encLen = s.encLen := rfl
@[simp] theorem State.startEncode_decCap : (s.startEncode).decCap = s.decCap := rfl
@[simp] theorem State.startEncode_errf : (s.startEncode).errf = s.errf := rfl
@[simp] theorem State.startEncode_dec : (s.startEncode).dec = s.dec := rfl
@[simp] theorem State.startEncode_enc :
    (s.startEncode).enc =
      { state := .eStart, len := s.encLen, idx := 0, chk := chkGen s.params (s.ebufBytes s.encLen.toNat), count := 0, done := false, code := .ok } := rfl
@[simp] theorem State.startEncode_ebuf : (s.startEncode).ebuf = s.ebuf := rfl
@[simp] theorem State.startEncode_pbuf : (s.startEncode).pbuf = s.pbuf := rfl
@[simp] theorem State.startEncode_obuf : (s.startEncode).obuf = s.obuf := rfl
@[simp] theorem State.startEncode_resets : (s.startEncode).resets = s.resets := rfl
@[simp] theorem State.startEncode_env : (s.startEncode).env = s.env := rfl
@[simp] theorem State.startEncode_ebufByte (a : Nat) : (s.startEncode).ebufByte a = s.ebufByte a := rfl
@[simp] theorem State.startEncode_pbufByte (a : Nat) : (s.startEncode).pbufByte a = s.pbufByte a := rfl
@[simp] theorem State.startEncode_obufByte (a : Nat) : (s.startEncode).obufByte a = s.obufByte a := rfl
@[simp] theorem State.startEncode_ebufBytes (a : Nat) : (s.startEncode).ebufBytes a = s.ebufBytes a := rfl
@[simp] theorem State.startEncode_pbufBytes (a : Nat) : (s.startEncode).pbufBytes a = s.pbufBytes a := rfl
@[simp] theorem State.startEncode_decBusy : (s.startEncode).decBusy = s.decBusy := rfl

@[simp] theorem State.startDecode_params : (s.startDecode).params = s.params := rfl
@[simp] theorem State.startDecode_encLen : (s.startDecode).encLen = s.encLen := rfl
@[simp] theorem State.startDecode_decCap : (s.startDecode).decCap = s.decCap := rfl
@[simp] theorem State.startDecode_errf : (s.startDecode).errf = s.errf := rfl
@[simp] theorem State.startDecode_dec :
    (s.startDecode).dec =
      { state := .dHdr, cap := s.decCap, lenhi := 0, len := 0, lenValid := false, idx := 0, count := 0, chk := 0, chkValid := false, done := false, code := .ok } := rfl
@[simp] theorem State.startDecode_enc : (s.startDecode).enc = s.enc := rfl
@[simp] theorem State.startDecode_ebuf : (s.startDecode).ebuf = s.ebuf := rfl
@[simp] theorem State.startDecode_pbuf : (s.startDecode).pbuf = s.pbuf := rfl
@[simp] theorem State.startDecode_obuf : (s.startDecode).obuf = s.obuf := rfl
@[simp] theorem State.startDecode_resets : (s.startDecode).resets = s.resets := rfl
@[simp] theorem State.startDecode_env : (s.startDecode).env = s.env := rfl
@[simp] theorem State.startDecode_ebufByte (a : Nat) : (s.startDecode).ebufByte a = s.ebufByte a := rfl
@[simp] theorem State.startDecode_pbufByte (a : Nat) : (s.startDecode).pbufByte a = s.pbufByte a := rfl
@[simp] theorem State.startDecode_obufByte (a : Nat) : (s.startDecode).obufByte a = s.obufByte a := rfl
@[simp] theorem State.startDecode_ebufBytes (a : Nat) : (s.startDecode).ebufBytes a = s.ebufBytes a := rfl
@[simp] theorem State.startDecode_pbufBytes (a : Nat) : (s.startDecode).pbufBytes a = s.pbufBytes a := rfl
@[simp] theorem State.startDecode_encBusy : (s.startDecode).encBusy = s.encBusy := rfl

@[simp] theorem State.countByte_params : (s.countByte).params = s.params := rfl
@[simp] theorem State.countByte_encLen : (s.countByte).encLen = s.encLen := rfl
@[simp] theorem State.countByte_decCap : (s.countByte).decCap = s.decCap := rfl
@[simp] theorem State.countByte_errf : (s.countByte).errf = s.errf := rfl
@[simp] theorem State.countByte_dec : (s.countByte).dec = { s.dec with count := s.dec.count + 1 } := rfl
@[simp] theorem State.countByte_enc : (s.countByte).enc = s.enc := rfl
@[simp] theorem State.countByte_ebuf : (s.countByte).ebuf = s.ebuf := rfl
@[simp] theorem State.countByte_pbuf : (s.countByte).pbuf = s.pbuf := rfl
@[simp] theorem State.countByte_obuf : (s.countByte).obuf = s.obuf := rfl
@[simp] theorem State.countByte_resets : (s.countByte).resets = s.resets := rfl
@[simp] theorem State.countByte_env : (s.countByte).env = s.env := rfl
@[simp] theorem State.countByte_ebufByte (a : Nat) : (s.countByte).ebufByte a = s.ebufByte a := rfl
@[simp] theorem State.countByte_pbufByte (a : Nat) : (s.countByte).pbufByte a = s.pbufByte a := rfl
@[simp] theorem State.countByte_obufByte (a : Nat) : (s.countByte).obufByte a = s.obufByte a := rfl
@[simp] theorem State.countByte_ebufBytes (a : Nat) : (s.countByte).ebufBytes a = s.ebufBytes a := rfl
@[simp] theorem State.countByte_pbufBytes (a : Nat) : (s.countByte).pbufBytes a = s.pbufBytes a := rfl
@[simp] theorem State.countByte_encBusy : (s.countByte).encBusy = s.encBusy := rfl

@[simp] theorem State.acceptByte_params (b : Byte) : (s.acceptByte b).params = s.params := rfl
@[simp] theorem State.acceptByte_encLen (b : Byte) : (s.acceptByte b).encLen = s.encLen := rfl
@[simp] theorem State.acceptByte_decCap (b : Byte) : (s.acceptByte b).decCap = s.decCap := rfl
@[simp] theorem State.acceptByte_errf (b : Byte) : (s.acceptByte b).errf = s.errf := rfl
@[simp] theorem State.acceptByte_dec (b : Byte) : (s.acceptByte b).dec = s.dec := rfl
@[simp] theorem State.acceptByte_enc (b : Byte) :
    (s.acceptByte b).enc =
      { s.enc with count := s.enc.count + 1 }.advance := rfl
@[simp] theorem State.acceptByte_ebuf (b : Byte) : (s.acceptByte b).ebuf = s.ebuf := rfl
@[simp] theorem State.acceptByte_pbuf (b : Byte) : (s.acceptByte b).pbuf = s.pbuf := rfl
@[simp] theorem State.acceptByte_obuf (b : Byte) : (s.acceptByte b).obuf = s.obuf := rfl
@[simp] theorem State.acceptByte_resets (b : Byte) : (s.acceptByte b).resets = s.resets := rfl
@[simp] theorem State.acceptByte_env (b : Byte) :
    (s.acceptByte b).env =
      { s.env with wire := s.env.wire ++ [b] } := rfl
@[simp] theorem State.acceptByte_ebufByte (b : Byte) (a : Nat) : (s.acceptByte b).ebufByte a = s.ebufByte a := rfl
@[simp] theorem State.acceptByte_pbufByte (b : Byte) (a : Nat) : (s.acceptByte b).pbufByte a = s.pbufByte a := rfl
@[simp] theorem State.acceptByte_obufByte (b : Byte) (a : Nat) : (s.acceptByte b).obufByte a = s.obufByte a := rfl
@[simp] theorem State.acceptByte_ebufBytes (b : Byte) (a : Nat) : (s.acceptByte b).ebufBytes a = s.ebufBytes a := rfl
@[simp] theorem State.acceptByte_pbufBytes (b : Byte) (a : Nat) : (s.acceptByte b).pbufBytes a = s.pbufBytes a := rfl
@[simp] theorem State.acceptByte_decBusy (b : Byte) : (s.acceptByte b).decBusy = s.decBusy := rfl

@[simp] theorem State.withSchedule_params (l : List Agent) : (s.withSchedule l).params = s.params := rfl
@[simp] theorem State.withSchedule_encLen (l : List Agent) : (s.withSchedule l).encLen = s.encLen := rfl
@[simp] theorem State.withSchedule_decCap (l : List Agent) : (s.withSchedule l).decCap = s.decCap := rfl
@[simp] theorem State.withSchedule_errf (l : List Agent) : (s.withSchedule l).errf = s.errf := rfl
@[simp] theorem State.withSchedule_dec (l : List Agent) : (s.withSchedule l).dec = s.dec := rfl
@[simp] theorem State.withSchedule_enc (l : List Agent) : (s.withSchedule l).enc = s.enc := rfl
@[simp] theorem State.withSchedule_ebuf (l : List Agent) : (s.withSchedule l).ebuf = s.ebuf := rfl
@[simp] theorem State.withSchedule_pbuf (l : List Agent) : (s.withSchedule l).pbuf = s.pbuf := rfl
@[simp] theorem State.withSchedule_obuf (l : List Agent) : (s.withSchedule l).obuf = s.obuf := rfl
@[simp] theorem State.withSchedule_resets (l : List Agent) : (s.withSchedule l).resets = s.resets := rfl
@[simp] theorem State.withSchedule_env (l : List Agent) : (s.withSchedule l).env = { s.env with schedule := l } := rfl
@[simp] theorem State.withSchedule_ebufByte (l : List Agent) (a : Nat) : (s.withSchedule l).ebufByte a = s.ebufByte a := rfl
@[simp] theorem State.withSchedule_pbufByte (l : List Agent) (a : Nat) : (s.withSchedule l).pbufByte a = s.pbufByte a := rfl
@[simp] theorem State.withSchedule_obufByte (l : List Agent) (a : Nat) : (s.withSchedule l).obufByte a = s.obufByte a := rfl
@[simp] theorem State.withSchedule_ebufBytes (l : List Agent) (a : Nat) : (s.withSchedule l).ebufBytes a = s.ebufBytes a := rfl
@[simp] theorem State.withSchedule_pbufBytes (l : List Agent) (a : Nat) : (s.withSchedule l).pbufBytes a = s.pbufBytes a := rfl
@[simp] theorem State.withSchedule_decBusy (l : List Agent) : (s.withSchedule l).decBusy = s.decBusy := rfl
@[simp] theorem State.withSchedule_encBusy (l : List Agent) : (s.withSchedule l).encBusy = s.encBusy := rfl

@[simp] theorem State.afterReset_params : (s.afterReset).params = s.params := rfl
@[simp] theorem State.afterReset_encLen : (s.afterReset).encLen = 0 := rfl
@[simp] theorem State.afterReset_decCap : (s.afterReset).decCap = s.params.obufSize := rfl
@[simp] theorem State.afterReset_errf : (s.afterReset).errf = 0 := rfl
@[simp] theorem State.afterReset_dec : (s.afterReset).dec = Decoder.atReset := rfl
@[simp] theorem State.afterReset_enc : (s.afterReset).enc = Encoder.atReset := rfl
@[simp] theorem State.afterReset_ebuf : (s.afterReset).ebuf = [] := rfl
@[simp] theorem State.afterReset_pbuf : (s.afterReset).pbuf = [] := rfl
@[simp] theorem State.afterReset_obuf : (s.afterReset).obuf = [] := rfl
@[simp] theorem State.afterReset_resets : (s.afterReset).resets = s.resets + 1 := rfl
@[simp] theorem State.afterReset_env : (s.afterReset).env = s.env := rfl

@[simp] theorem State.decBusy_eq_true : s.decBusy = true ↔ s.dec.state ≠ .dIdle := by simp [State.decBusy]
@[simp] theorem State.decBusy_eq_false : s.decBusy = false ↔ s.dec.state = .dIdle := by simp [State.decBusy]
@[simp] theorem State.encBusy_eq_true : s.encBusy = true ↔ s.enc.state ≠ .eIdle := by simp [State.encBusy]
@[simp] theorem State.encBusy_eq_false : s.encBusy = false ↔ s.enc.state = .eIdle := by simp [State.encBusy]

end Sys2Proof.Machine
end

