-- ==== Sys2Proof/Laws/Memory.lean ====
section
/-! SUPPORT. The laws of byte memories: read after write, the canonical form is kept, the copy of a decode's final
event, and equal readings mean equal data. -/

namespace Sys2Proof.Machine

@[simp] theorem Memory.read_nil (a : Nat) : Memory.read [] a = none := rfl

@[simp] theorem Memory.read_write (m : Memory) (a : Nat) (b : Byte) (x : Nat) :
    (m.write a b).read x = if x = a then some b else m.read x := by
  induction m with
  | nil => simp [Memory.write, Memory.read]
  | cons c m ih =>
    obtain ⟨k, v⟩ := c
    simp only [Memory.write]
    split_ifs with h1 h2 h3 h3 <;> simp only [Memory.read, ih] <;> split_ifs <;> first | rfl | omega

theorem Memory.read_write_same (m : Memory) (a : Nat) (b : Byte) : (m.write a b).read a = some b := by simp

theorem Memory.read_write_other (m : Memory) {a x : Nat} (b : Byte) (h : x ≠ a) : (m.write a b).read x = m.read x := by
  simp [h]

/-- A cell of a written memory is the written one or an old one. -/
theorem Memory.mem_write {m : Memory} {a : Nat} {b : Byte} {c : Host.Cell} (h : c ∈ m.write a b) :
    c = (a, b) ∨ c ∈ m := by
  induction m with
  | nil => simpa [Memory.write] using h
  | cons d m ih =>
    obtain ⟨k, v⟩ := d
    simp only [Memory.write] at h
    split_ifs at h with h1 h2
    · simpa using h
    · rcases List.mem_cons.1 h with h | h
      · exact .inl h
      · exact .inr (List.mem_cons_of_mem _ h)
    · rcases List.mem_cons.1 h with h | h
      · exact .inr (h ▸ List.mem_cons_self ..)
      · exact (ih h).imp_right (List.mem_cons_of_mem _)

theorem Memory.within_write {m : Memory} {n a : Nat} (b : Byte) (hm : m.within n) (ha : a < n) :
    (m.write a b).within n := by
  intro c hc
  rcases Memory.mem_write hc with rfl | hc
  · exact ha
  · exact hm c hc

theorem Memory.wf_nil : Memory.wf [] := by simp [Memory.wf]

theorem Memory.wf_write {m : Memory} (a : Nat) (b : Byte) (hm : m.wf) : (m.write a b).wf := by
  refine ⟨?_, by simp [Memory.unlisted]⟩
  replace hm := hm.1
  induction m with
  | nil => simp [Memory.write]
  | cons d m ih =>
    obtain ⟨k, v⟩ := d
    obtain ⟨hk, hm'⟩ := List.pairwise_cons.1 hm
    simp only [Memory.write]
    split_ifs with h1 h2
    · refine List.pairwise_cons.2 ⟨?_, hm⟩
      intro c hc
      rcases List.mem_cons.1 hc with rfl | hc
      · exact h1
      · exact Nat.lt_trans h1 (hk c hc)
    · subst h2
      exact List.pairwise_cons.2 ⟨hk, hm'⟩
    · refine List.pairwise_cons.2 ⟨?_, ih hm'⟩
      intro c hc
      rcases Memory.mem_write hc with rfl | hc
      · show k < a
        omega
      · exact hk c hc

/-- An offset below every listed one is not listed. -/
theorem Memory.read_eq_none {m : Memory} {a : Nat} (h : ∀ c ∈ m, a < c.1) : m.read a = none := by
  induction m with
  | nil => rfl
  | cons d m ih =>
    obtain ⟨k, v⟩ := d
    have hk : a < k := h (k, v) (List.mem_cons_self ..)
    simp only [Memory.read]
    rw [if_neg (by omega), ih fun c hc => h c (List.mem_cons_of_mem _ hc)]

/-- Memories in canonical form that read the same are the same data. -/
theorem Memory.eq_of_read_eq {m m' : Memory} (hm : m.wf) (hm' : m'.wf) (h : ∀ a, m.read a = m'.read a) : m = m' := by
  replace hm := hm.1
  replace hm' := hm'.1
  induction m generalizing m' with
  | nil =>
    cases m' with
    | nil => rfl
    | cons d m' => exact absurd (h d.1) (by simp [Memory.read, Memory.unlisted])
  | cons c m ih =>
    cases m' with
    | nil => exact absurd (h c.1) (by simp [Memory.read, Memory.unlisted])
    | cons d m' =>
      obtain ⟨k, v⟩ := c
      obtain ⟨k', v'⟩ := d
      obtain ⟨hk, ht⟩ := List.pairwise_cons.1 hm
      obtain ⟨hk', ht'⟩ := List.pairwise_cons.1 hm'
      have e1 : Memory.read m k = none := Memory.read_eq_none hk
      have e2 : Memory.read m' k' = none := Memory.read_eq_none hk'
      have hkk : k = k' := by
        by_contra hne
        rcases Nat.lt_or_gt_of_ne hne with hlt | hlt
        · have h1 := h k
          have : Memory.read m' k = none :=
            Memory.read_eq_none fun c hc => Nat.lt_trans hlt (hk' c hc)
          simp [Memory.read, this, hne] at h1
        · have h1 := h k'
          have : Memory.read m k' = none :=
            Memory.read_eq_none fun c hc => Nat.lt_trans hlt (hk c hc)
          simp [Memory.read, this, Ne.symm hne] at h1
      subst hkk
      have hv : v = v' := by simpa [Memory.read] using h k
      subst hv
      congr 1
      refine ih (m' := m') (fun a => ?_) ht ht'
      by_cases ha : a = k
      · subst ha; rw [e1, e2]
      · simpa [Memory.read, ha] using h a

@[simp] theorem copyBytes_read (src : Nat → Byte) (n : Nat) (m : Memory) (x : Nat) :
    (copyBytes src n m).read x = if x < n then some (src x) else m.read x := by
  induction n with
  | zero => simp [copyBytes]
  | succ n ih =>
    simp only [copyBytes, Memory.read_write, ih]
    split_ifs with h1 h2 h2 h3 h3 <;> first | rfl | omega | (subst h1; rfl)

theorem copyBytes_wf (src : Nat → Byte) (n : Nat) {m : Memory} (hm : m.wf) : (copyBytes src n m).wf := by
  induction n with
  | zero => exact hm
  | succ n ih => exact Memory.wf_write _ _ ih

theorem copyBytes_within (src : Nat → Byte) (n : Nat) {m : Memory} {k : Nat} (hm : m.within k) (hn : n ≤ k) :
    (copyBytes src n m).within k := by
  induction n with
  | zero => exact hm
  | succ n ih => exact Memory.within_write _ (ih (by omega)) (by omega)

/-- EBUF after a store: the stored byte at its offset, the old one elsewhere. -/
theorem State.storeEbuf_ebufByte (s : State) (i : Nat) (b : Byte) (a : Nat) :
    (s.storeEbuf i b).ebufByte a = if a = i then b else s.ebufByte a := by
  simp only [State.ebufByte, State.storeEbuf, Memory.read_write]
  split_ifs <;> rfl

/-- PBUF after a store. -/
theorem State.storePbuf_pbufByte (s : State) (i : Nat) (b : Byte) (a : Nat) :
    (s.storePbuf i b).pbufByte a = if a = i then b else s.pbufByte a := by
  simp only [State.pbufByte, State.storePbuf, Memory.read_write]
  split_ifs <;> rfl

/-- OBUF after the final copy: PBUF's bytes below the copy length, the old ones above. -/
theorem State.copyToObuf_obufByte (s : State) (n a : Nat) :
    (s.copyToObuf n).obufByte a = if a < n then s.pbufByte a else s.obufByte a := by
  simp only [State.obufByte, State.copyToObuf, copyBytes_read]
  split_ifs <;> rfl

/-- `M[0..n)` depends on the first n bytes only. -/
theorem firstBytes_congr {f g : Nat → Byte} {n : Nat} (h : ∀ i, i < n → f i = g i) : firstBytes f n = firstBytes g n :=
  List.map_congr_left fun i hi => h i (List.mem_range.1 hi)

@[simp] theorem firstBytes_length (f : Nat → Byte) (n : Nat) : (firstBytes f n).length = n := by simp [firstBytes]

@[simp] theorem State.ebufBytes_length (s : State) (n : Nat) : (s.ebufBytes n).length = n := firstBytes_length _ _

@[simp] theorem State.pbufBytes_length (s : State) (n : Nat) : (s.pbufBytes n).length = n := firstBytes_length _ _

end Sys2Proof.Machine
end

