-- ==== Sys2Proof/Laws/Machine.lean ====
section
/-! SUPPORT. One lemma per shared operation, saying once what it can do. -/

namespace Sys2Proof.Machine

/-! ## Operands -/

/-- The register an index names, by the index. -/
theorem csrAt_eq (offset : Half) :
    csrAt offset =
      if offset = 0 then some .cmd else if offset = 1 then some .encLen else if offset = 2 then some .encStatus
      else if offset = 3 then some .encCount else if offset = 4 then some .decCap else if offset = 5 then some .decStatus
      else if offset = 6 then some .decLen else if offset = 7 then some .decCount else if offset = 8 then some .decChk
      else if offset = 9 then some .errf else none := by
  have key : ∀ k : Half, offset = k ↔ offset.toNat = k.toNat := fun k => BitVec.toNat_inj.symm
  simp only [key]
  unfold csrAt
  split <;> simp_all

@[simp] theorem csrAt_zero : csrAt 0 = some .cmd := rfl

/-- EBUF has every offset but 0xFFFF. -/
theorem inEbuf_iff (offset : Half) : inEbuf offset ↔ offset ≠ 0xFFFF := by
  have h := offset.isLt
  have key : offset = 0xFFFF ↔ offset.toNat = 65535 := BitVec.toNat_inj.symm
  simp only [inEbuf, ebufSize, ne_eq, key]
  omega

theorem legalCap_toNat (p : Params) (w : Word) : (legalCap p w).toNat = min (w.toNat % 65536) p.obufSize.toNat := by
  unfold legalCap
  have e : (w.setWidth 16 : Half).toNat = w.toNat % 65536 := by simp
  split_ifs with h
  · rw [BitVec.le_def, e] at h
    rw [e]; omega
  · rw [BitVec.le_def, e] at h
    omega

theorem legalCap_le (p : Params) (w : Word) : (legalCap p w).toNat ≤ p.obufSize.toNat := by
  rw [legalCap_toNat]; exact Nat.min_le_right _ _

theorem lengthOf_toNat (hi lo : Byte) : (lengthOf hi lo).toNat = hi.toNat * 256 + lo.toNat := by
  have h0 := hi.isLt
  have h1 := lo.isLt
  have e : hi.toNat <<< 8 % 2 ^ 16 = hi.toNat <<< 8 := Nat.mod_eq_of_lt (by rw [Nat.shiftLeft_eq]; omega)
  have m0 : hi.toNat % 2 ^ 16 = hi.toNat := Nat.mod_eq_of_lt (by omega)
  have m1 : lo.toNat % 2 ^ 16 = lo.toNat := Nat.mod_eq_of_lt (by omega)
  simp only [lengthOf, BitVec.toNat_or, BitVec.toNat_shiftLeft, BitVec.toNat_setWidth, m0, m1, e]
  rw [Nat.shiftLeft_eq, Nat.mul_comm, ← Nat.two_pow_add_eq_or_of_lt (by omega), Nat.mul_comm]

theorem lenHi_eq (len : Half) : lenHi len = BitVec.ofNat 8 (len.toNat / 256) := by
  apply BitVec.eq_of_toNat_eq
  simp [lenHi, BitVec.extractLsb'_toNat, Nat.shiftRight_eq_div_pow]

theorem lenLo_eq (len : Half) : lenLo len = BitVec.ofNat 8 (len.toNat % 256) := by
  apply BitVec.eq_of_toNat_eq
  simp [lenLo, BitVec.extractLsb'_toNat]

/-! ## The checksum unit and the frame -/

/-- Every policy accepts the byte it generates (43 R110). -/
theorem chkAccept_chkGen (p : Params) (payload : List Byte) : chkAccept p payload (chkGen p payload) = true := by
  unfold chkAccept chkGen
  split <;> simp

theorem chkAccept_placeholder {p : Params} (h : p.policy = .placeholder) (payload : List Byte) (c : Byte) :
    chkAccept p payload c = true := by
  simp [chkAccept, h]

@[simp] theorem frame_length (p : Params) (payload : List Byte) : (frame p payload).length = 5 + payload.length := by
  simp [frame]; omega

/-! ## The units -/

/-- What `dec_complete` can do (41 R87). -/
theorem decComplete_cases (s : State) :
    (chkAccept s.params (s.pbufBytes s.dec.len.toNat) s.dec.chk = false ∧
      decComplete s = .next (s.decFinish .checksumMismatch)) ∨
    (chkAccept s.params (s.pbufBytes s.dec.len.toNat) s.dec.chk = true ∧ s.params.obufSize.toNat < s.copyLength ∧
      decComplete s = .fault (.obufOffset s.params.obufSize.toNat)) ∨
    (chkAccept s.params (s.pbufBytes s.dec.len.toNat) s.dec.chk = true ∧ s.copyLength ≤ s.params.obufSize.toNat ∧
      decComplete s = .next ((s.copyToObuf s.copyLength).decFinish
        (if s.dec.cap.toNat < s.dec.len.toNat then .bufferTooSmall else .ok))) := by
  unfold decComplete
  by_cases h1 : chkAccept s.params (s.pbufBytes s.dec.len.toNat) s.dec.chk = false
  · exact .inl ⟨h1, by rw [if_pos h1]⟩
  · rw [if_neg h1]
    replace h1 := Bool.eq_true_of_not_eq_false h1
    by_cases h2 : s.params.obufSize.toNat < s.copyLength
    · exact .inr (.inl ⟨h1, h2, by rw [if_pos h2]⟩)
    · refine .inr (.inr ⟨h1, Nat.le_of_not_lt h2, ?_⟩)
      rw [if_neg h2]
      by_cases h3 : s.dec.cap < s.dec.len
      · rw [if_pos h3, if_pos (BitVec.lt_def.1 h3)]
      · rw [if_neg h3, if_neg (fun h => h3 (BitVec.lt_def.2 h))]

/-- A legal capacity keeps the final copy inside OBUF (41 R87). -/
theorem copyLength_le {s : State} (h : s.dec.cap.toNat ≤ s.params.obufSize.toNat) :
    s.copyLength ≤ s.params.obufSize.toNat :=
  Nat.le_trans (Nat.min_le_left _ _) h

/-- LENGTH as a number (30 R63). -/
theorem lengthOf_ofNat (hi lo : Byte) : lengthOf hi lo = BitVec.ofNat 16 (hi.toNat * 256 + lo.toNat) := by
  have h0 := hi.isLt
  have h1 := lo.isLt
  apply BitVec.eq_of_toNat_eq
  rw [lengthOf_toNat, BitVec.toNat_ofNat]
  omega

/-- What a data byte can do (41 R86, R87). -/
theorem execRxByte_cases (b : Byte) (s : State) :
    (s.dec.state = .dIdle ∧ execRxByte b s = .next s) ∨
    (s.dec.state = .dHdr ∧ b = 0x02 ∧ execRxByte b s = .next { s with
      dec := { s.dec with count := s.dec.count + 1, state := .dLenhi } }) ∨
    (s.dec.state = .dHdr ∧ b ≠ 0x02 ∧ execRxByte b s = .next { s with
      dec := { s.dec with count := s.dec.count + 1, state := .dIdle, done := true, code := .malformedHeader } }) ∨
    (s.dec.state = .dLenhi ∧ execRxByte b s = .next { s with
      dec := { s.dec with count := s.dec.count + 1, lenhi := b, state := .dLenlo } }) ∨
    (s.dec.state = .dLenlo ∧ execRxByte b s = .next { s with
      dec := { s.dec with
        count := s.dec.count + 1, len := lengthOf s.dec.lenhi b, lenValid := true, idx := 0,
        state := if lengthOf s.dec.lenhi b = 0 then .dTrl else .dPay } }) ∨
    (s.dec.state = .dPay ∧ pbufSize ≤ s.dec.idx.toNat ∧ execRxByte b s = .fault (.pbufOffset s.dec.idx.toNat)) ∨
    (s.dec.state = .dPay ∧ s.dec.idx.toNat < pbufSize ∧ execRxByte b s = .next { s with
      pbuf := s.pbuf.write s.dec.idx.toNat b
      dec := { s.dec with
        count := s.dec.count + 1, idx := s.dec.idx + 1,
        state := if s.dec.idx + 1 = s.dec.len then .dTrl else .dPay } }) ∨
    (s.dec.state = .dTrl ∧ b = 0x03 ∧ execRxByte b s = .next { s with
      dec := { s.dec with count := s.dec.count + 1, state := .dChk } }) ∨
    (s.dec.state = .dTrl ∧ b ≠ 0x03 ∧ execRxByte b s = .next { s with
      dec := { s.dec with count := s.dec.count + 1, state := .dIdle, done := true, code := .malformedTrailer } }) ∨
    (s.dec.state = .dChk ∧ chkAccept s.params (s.pbufBytes s.dec.len.toNat) b = false ∧ execRxByte b s = .next { s with
      dec := { s.dec with
        count := s.dec.count + 1, chk := b, chkValid := true, state := .dIdle, done := true,
        code := .checksumMismatch } }) ∨
    (s.dec.state = .dChk ∧ s.params.obufSize.toNat < s.copyLength ∧
      execRxByte b s = .fault (.obufOffset s.params.obufSize.toNat)) ∨
    (s.dec.state = .dChk ∧ chkAccept s.params (s.pbufBytes s.dec.len.toNat) b = true ∧
      s.copyLength ≤ s.params.obufSize.toNat ∧ execRxByte b s = .next { s with
        obuf := copyBytes s.pbufByte s.copyLength s.obuf
        dec := { s.dec with
          count := s.dec.count + 1, chk := b, chkValid := true, state := .dIdle, done := true,
          code := if s.dec.cap.toNat < s.dec.len.toNat then .bufferTooSmall else .ok } }) := by
  unfold execRxByte
  cases h : s.dec.state
  case dIdle => exact .inl ⟨rfl, rfl⟩
  case dHdr =>
    by_cases hb : b = startByte
    · exact .inr (.inl ⟨rfl, hb, by simp only [takeStart, if_pos hb]; rfl⟩)
    · exact .inr (.inr (.inl ⟨rfl, hb, by simp only [takeStart, if_neg hb]; rfl⟩))
  case dLenhi => exact .inr (.inr (.inr (.inl ⟨rfl, rfl⟩)))
  case dLenlo => exact .inr (.inr (.inr (.inr (.inl ⟨rfl, rfl⟩))))
  case dPay =>
    refine .inr (.inr (.inr (.inr (.inr ?_))))
    by_cases hi : s.dec.idx.toNat < pbufSize
    · exact .inr (.inl ⟨rfl, hi, by simp only [takePayload]; exact if_pos hi⟩)
    · exact .inl ⟨rfl, Nat.le_of_not_lt hi, by simp only [takePayload]; exact if_neg hi⟩
  case dTrl =>
    refine .inr (.inr (.inr (.inr (.inr (.inr (.inr ?_))))))
    by_cases hb : b = endByte
    · exact .inl ⟨rfl, hb, by simp only [takeEnd, if_pos hb]; rfl⟩
    · exact .inr (.inl ⟨rfl, hb, by simp only [takeEnd, if_neg hb]; rfl⟩)
  case dChk =>
    refine .inr (.inr (.inr (.inr (.inr (.inr (.inr (.inr (.inr ?_))))))))
    rcases decComplete_cases { s.countByte with dec := { s.countByte.dec with chk := b, chkValid := true } } with
      ⟨h1, e⟩ | ⟨_, h2, e⟩ | ⟨h1, h2, e⟩
    · exact .inl ⟨rfl, h1, e⟩
    · exact .inr (.inl ⟨rfl, h2, e⟩)
    · exact .inr (.inr ⟨rfl, h1, h2, e⟩)

/-- Every command answers a next state (40 R72 to R74). -/
theorem command_cases (w : Word) (s : State) :
    (w = 0 ∧ command w s = .next s) ∨
    (w = 1 ∧ command w s = .next (if s.encBusy then s.setErr .encBusyCmd else s.startEncode)) ∨
    (w = 2 ∧ command w s = .next (if s.decBusy then s.setErr .decBusyCmd else s.startDecode)) ∨
    (w ≠ 0 ∧ w ≠ 1 ∧ w ≠ 2 ∧ command w s = .next (s.setErr .rsvdCmd)) := by
  unfold command execNop execEncode execDecode execCmdRsvd
  by_cases h0 : w = 0
  · exact .inl ⟨h0, by rw [if_pos h0]⟩
  by_cases h1 : w = 1
  · refine .inr (.inl ⟨h1, ?_⟩)
    rw [if_neg h0, if_pos h1]; split_ifs <;> rfl
  by_cases h2 : w = 2
  · refine .inr (.inr (.inl ⟨h2, ?_⟩))
    rw [if_neg h0, if_neg h1, if_pos h2]; split_ifs <;> rfl
  · exact .inr (.inr (.inr ⟨h0, h1, h2, by rw [if_neg h0, if_neg h1, if_neg h2]⟩))

/-- A write to CMD is a command (40 R71). -/
@[simp] theorem execCsrw_cmd (w : Word) (s : State) : execCsrw 0 w s = command w s := rfl

/-- A command is what its word decodes to (40 R72). -/
theorem command_eq_exec (w : Word) (s : State) : command w s = exec (decodeCommand w) s := by
  unfold command decodeCommand
  by_cases h0 : w = 0
  · rw [if_pos h0, if_pos h0]; rfl
  by_cases h1 : w = 1
  · rw [if_neg h0, if_pos h1, if_neg h0, if_pos h1]; rfl
  by_cases h2 : w = 2
  · rw [if_neg h0, if_neg h1, if_pos h2, if_neg h0, if_neg h1, if_pos h2]; rfl
  · rw [if_neg h0, if_neg h1, if_neg h2, if_neg h0, if_neg h1, if_neg h2]; rfl

/-- What a CSR write can do (40 R71). -/
theorem execCsrw_cases (offset : Half) (w : Word) (s : State) :
    (offset = 0 ∧ execCsrw offset w s = command w s) ∨
    (offset = 1 ∧ execCsrw offset w s = .next { s with encLen := w.setWidth 16 }) ∨
    (offset = 4 ∧ execCsrw offset w s = .next { s with decCap := legalCap s.params w }) ∨
    (offset = 9 ∧ execCsrw offset w s = .next (s.clearErr w)) ∨
    (offset ≠ 0 ∧ offset ≠ 1 ∧ offset ≠ 4 ∧ offset ≠ 9 ∧ execCsrw offset w s = .next (s.setErr .badAccess)) := by
  unfold execCsrw
  rw [csrAt_eq]
  split_ifs <;> simp_all

/-- What an EBUF write can do (40 R76). -/
theorem execEbw_cases (offset : Half) (w : Word) (s : State) :
    (offset = 0xFFFF ∧ execEbw offset w s = .next (s.setErr .badAccess)) ∨
    (offset ≠ 0xFFFF ∧ s.encBusy = true ∧ execEbw offset w s = .next (s.setErr .ebufWrBusy)) ∨
    (offset ≠ 0xFFFF ∧ s.encBusy = false ∧ execEbw offset w s = .next (s.storeEbuf offset.toNat (wdataByte w))) := by
  unfold execEbw
  by_cases h : inEbuf offset
  · have hne := (inEbuf_iff offset).1 h
    rw [if_neg (not_not.2 h)]
    cases hb : s.encBusy
    · exact .inr (.inr ⟨hne, rfl, rfl⟩)
    · exact .inr (.inl ⟨hne, rfl, rfl⟩)
  · have he : offset = 0xFFFF := by
      by_contra hne
      exact h ((inEbuf_iff offset).2 hne)
    exact .inl ⟨he, if_pos h⟩

/-- RDATA of an EBUF read (40 R75). -/
theorem execEbr_eq (offset : Half) (s : State) :
    execEbr offset s =
      .next (s.respond (if offset = 0xFFFF then 0 else (s.ebufByte offset.toNat).setWidth 32)) := by
  unfold execEbr
  by_cases h : offset = 0xFFFF
  · rw [if_pos h, if_neg (fun hi => (inEbuf_iff offset).1 hi h)]
  · rw [if_neg h, if_pos ((inEbuf_iff offset).2 h)]

/-- RDATA of an OBUF read (40 R77). -/
theorem execObr_eq (offset : Half) (s : State) :
    execObr offset s =
      .next (s.respond (if offset.toNat < s.params.obufSize.toNat then (s.obufByte offset.toNat).setWidth 32 else 0)) := by
  unfold execObr
  by_cases h : s.inObuf offset
  · rw [if_pos h, if_pos h]
  · rw [if_neg h, if_neg h]

/-- EXHAUSTED on a busy decoder (41 R88). -/
theorem execRxExhausted_eq (s : State) :
    execRxExhausted s = .next (match exhaustedCode s.dec.state with | none => s | some c => s.decFinish c) := by
  unfold execRxExhausted
  cases exhaustedCode s.dec.state <;> rfl

/-- What an acceptance can do (42 R99). -/
theorem execTxAccept_cases (s : State) :
    (s.encBusy = false ∧ execTxAccept s = .next s) ∨
    (∃ b, s.emit = some b ∧ s.encBusy = true ∧ s.enc.state = .ePay ∧ ebufSize ≤ s.enc.idx.toNat ∧
      execTxAccept s = .fault (.ebufOffset s.enc.idx.toNat)) ∨
    (∃ b, s.emit = some b ∧ s.encBusy = true ∧ (s.enc.state = .ePay → s.enc.idx.toNat < ebufSize) ∧
      execTxAccept s = .next (s.acceptByte b)) := by
  unfold execTxAccept State.emit State.encBusy
  rcases h : s.enc.state
  case eIdle => simp
  case ePay =>
    by_cases hi : s.enc.idx.toNat < ebufSize
    · exact .inr (.inr ⟨_, rfl, by simp, fun _ => hi, by simp [hi]⟩)
    · exact .inr (.inl ⟨_, rfl, by simp, rfl, Nat.le_of_not_lt hi, by simp [hi]⟩)
  all_goals exact .inr (.inr ⟨_, rfl, by simp, by simp, by simp⟩)

/-! ## Events one after another -/

@[simp] theorem execAll_nil (s : State) : execAll [] s = .next s := rfl

/-- An event that answers a next state, and then the rest. -/
theorem execAll_cons {i : Instr} {s t : State} (h : exec i s = .next t) (is : List Instr) :
    execAll (i :: is) s = execAll is t := by
  simp only [execAll, h]

/-- Two lists of events, the first of which answers a next state. -/
theorem execAll_append {is : List Instr} {s t : State} (h : execAll is s = .next t) (js : List Instr) :
    execAll (is ++ js) s = execAll js t := by
  induction is generalizing s with
  | nil => cases h; rfl
  | cons i is ih =>
    simp only [execAll] at h
    rw [List.cons_append]
    simp only [execAll]
    split at h
    · exact ih h
    · cases h
    · cases h

/-! ## The step -/

/-- What the next event takes from the environment: nothing, or one input with only the schedule and the queues
changed, a symbol only from a busy decoder's source and a response only from a busy encoder's sink (10 R35). -/
theorem fetch_cases (s : State) :
    (∃ l, fetch s = (none, s.withSchedule l)) ∨
    (∃ p e, fetch s = (some p, { s with env := e }) ∧ e.wire = s.env.wire ∧ e.responses = s.env.responses ∧
      (s.decBusy = false → e.rxSymbols = s.env.rxSymbols) ∧ (s.encBusy = false → e.txResponses = s.env.txResponses)) := by
  unfold fetch
  rcases h : s.env.schedule with _ | ⟨a, rest⟩
  · refine .inl ⟨[], ?_⟩
    cases s with | mk _ _ _ _ _ _ _ _ _ _ env => cases env; simp_all [State.withSchedule]
  cases a <;> simp only
  · unfold State.takeRequest
    rcases (s.withSchedule rest).env.hostRequests with _ | ⟨w, ws⟩
    · exact .inl ⟨rest, rfl⟩
    · exact .inr ⟨_, _, rfl, rfl, rfl, fun _ => rfl, fun _ => rfl⟩
  · unfold State.takeSymbol
    rcases (s.withSchedule rest).env.rxSymbols with _ | ⟨w, ws⟩
    · exact .inl ⟨rest, rfl⟩
    · by_cases hb : s.decBusy = true
      · exact .inr ⟨_, _, if_pos hb, rfl, rfl, by simp [hb], fun _ => rfl⟩
      · exact .inl ⟨rest, if_neg hb⟩
  · unfold State.takeResponse
    rcases (s.withSchedule rest).env.txResponses with _ | ⟨w, ws⟩
    · exact .inl ⟨rest, rfl⟩
    · by_cases hb : s.encBusy = true
      · exact .inr ⟨_, _, if_pos hb, rfl, rfl, fun _ => rfl, by simp [hb]⟩
      · exact .inl ⟨rest, if_neg hb⟩
  · exact .inr ⟨_, _, rfl, rfl, rfl, fun _ => rfl, fun _ => rfl⟩

/-- A step moves nothing but the schedule, or it runs a decoded event on a state that differs only in the schedule and
the queues (20 R50). -/
theorem step_cases (s : State) :
    (∃ l, step s = .next (s.withSchedule l)) ∨
    (∃ p e, step s = exec (decode p) { s with env := e } ∧ e.wire = s.env.wire ∧ e.responses = s.env.responses ∧
      (s.decBusy = false → e.rxSymbols = s.env.rxSymbols) ∧ (s.encBusy = false → e.txResponses = s.env.txResponses)) := by
  rcases fetch_cases s with ⟨l, h⟩ | ⟨p, e, h, h'⟩
  · exact .inl ⟨l, by simp [step, runEvent, h]⟩
  · exact .inr ⟨p, e, by simp [step, runEvent, h], h'⟩

end Sys2Proof.Machine
end

