-- ==== Sys2Proof/Laws/Events.lean ====
section
/-! SUPPORT. What each kind of event leaves as it was, once for all of them: a symbol, a response, or a request or
command of the host. -/

namespace Sys2Proof.Machine


/-- What every host event leaves as it was. -/
structure HostKeeps (i : Instr) (s t : State) : Prop where
  params : t.params = s.params
  pbuf : t.pbuf = s.pbuf
  obuf : t.obuf = s.obuf
  resets : t.resets = s.resets
  env : ∃ r, t.env = { s.env with responses := r }
  dec : t.dec = s.dec ∨ i.IsDecode ∧ s.decBusy = false ∧ t = s.startDecode
  enc : t.enc = s.enc ∨ i.IsEncode ∧ s.encBusy = false ∧ t = s.startEncode
  ebuf : t.ebuf = s.ebuf ∨ s.encBusy = false ∧ t.enc = s.enc ∧ ∃ a b, a < ebufSize ∧ t.ebuf = s.ebuf.write a b
  decCap : t.decCap = s.decCap ∨ t.decCap.toNat ≤ s.params.obufSize.toNat
  errf : ∀ k, s.errf.getLsbD k = true → t.errf.getLsbD k = false → ∃ w : Word, i = .csrw 9 w ∧ w.getLsbD k = true

theorem HostKeeps.of_errf {i : Instr} {s : State} (e : ErrBit) : HostKeeps i s (s.setErr e) where
  params := rfl
  pbuf := rfl
  obuf := rfl
  resets := rfl
  env := ⟨_, rfl⟩
  dec := .inl rfl
  enc := .inl rfl
  ebuf := .inl rfl
  decCap := .inl rfl
  errf := by
    intro k h1 h2
    simp [h1] at h2

theorem HostKeeps.of_respond {i : Instr} {s : State} (r : Word) : HostKeeps i s (s.respond r) where
  params := rfl
  pbuf := rfl
  obuf := rfl
  resets := rfl
  env := ⟨_, rfl⟩
  dec := .inl rfl
  enc := .inl rfl
  ebuf := .inl rfl
  decCap := .inl rfl
  errf := by
    intro k h1 h2
    simp [h1] at h2

theorem HostKeeps.of_command {i : Instr} {s t : State} {w : Word} (he : w = 1 → i.IsEncode) (hd : w = 2 → i.IsDecode)
    (h : command w s = .next t) : HostKeeps i s t := by
  rcases command_cases w s with ⟨_, e⟩ | ⟨hw, e⟩ | ⟨hw, e⟩ | ⟨_, _, _, e⟩ <;> rw [e] at h <;> cases h
  · exact ⟨rfl, rfl, rfl, rfl, ⟨_, rfl⟩, .inl rfl, .inl rfl, .inl rfl, .inl rfl, fun k h1 h2 => by simp [h1] at h2⟩
  · split_ifs with hb
    · exact .of_errf _
    · exact ⟨rfl, rfl, rfl, rfl, ⟨_, rfl⟩, .inl rfl, .inr ⟨he hw, Bool.eq_false_of_not_eq_true hb, rfl⟩, .inl rfl, .inl rfl,
        fun k h1 h2 => by simp [h1] at h2⟩
  · split_ifs with hb
    · exact .of_errf _
    · exact ⟨rfl, rfl, rfl, rfl, ⟨_, rfl⟩, .inr ⟨hd hw, Bool.eq_false_of_not_eq_true hb, rfl⟩, .inl rfl, .inl rfl, .inl rfl,
        fun k h1 h2 => by simp [h1] at h2⟩
  · exact .of_errf _

theorem HostKeeps.of_csrw {o : Half} {w : Word} {s t : State} (h : execCsrw o w s = .next t) : HostKeeps (.csrw o w) s t := by
  rcases execCsrw_cases o w s with ⟨rfl, e⟩ | ⟨_, e⟩ | ⟨_, e⟩ | ⟨rfl, e⟩ | ⟨_, _, _, _, e⟩ <;> rw [e] at h
  · exact .of_command (fun hw => .inr (by rw [hw])) (fun hw => .inr (by rw [hw])) h
  all_goals cases h
  · exact ⟨rfl, rfl, rfl, rfl, ⟨_, rfl⟩, .inl rfl, .inl rfl, .inl rfl, .inl rfl, fun k h1 h2 => by simp [h1] at h2⟩
  · exact ⟨rfl, rfl, rfl, rfl, ⟨_, rfl⟩, .inl rfl, .inl rfl, .inl rfl, .inr (legalCap_le ..), fun k h1 h2 => by simp [h1] at h2⟩
  · refine ⟨rfl, rfl, rfl, rfl, ⟨_, rfl⟩, .inl rfl, .inl rfl, .inl rfl, .inl rfl, fun k h1 h2 => ⟨w, rfl, ?_⟩⟩
    have hk : k < 5 := by
      by_contra hk
      rw [BitVec.getLsbD_of_ge _ _ (by omega)] at h1
      cases h1
    simpa [State.clearErr, h1, hk] using h2
  · exact .of_errf _

theorem HostKeeps.of_ebw {o : Half} {w : Word} {s t : State} (h : execEbw o w s = .next t) : HostKeeps (.ebw o w) s t := by
  rcases execEbw_cases o w s with ⟨_, e⟩ | ⟨_, _, e⟩ | ⟨ho, hb, e⟩ <;> rw [e] at h <;> cases h
  · exact .of_errf _
  · exact .of_errf _
  · exact ⟨rfl, rfl, rfl, rfl, ⟨_, rfl⟩, .inl rfl, .inl rfl, .inr ⟨hb, rfl, _, _, (inEbuf_iff o).2 ho, rfl⟩, .inl rfl,
      fun k h1 h2 => by simp [h1] at h2⟩

/-- What each event is: a symbol, a response, RESET, or a host event with its frame. -/
theorem exec_kinds {i : Instr} {s t : State} (h : exec i s = .next t) :
    i.IsSymbol ∨ i.IsResponse ∨ i = .reset ∨ HostKeeps i s t := by
  cases i with
  | csrr o w => cases h; exact .inr (.inr (.inr (.of_respond _)))
  | csrw o w => exact .inr (.inr (.inr (.of_csrw h)))
  | ebr o w =>
    rw [exec, execEbr_eq] at h
    cases h; exact .inr (.inr (.inr (.of_respond _)))
  | ebw o w => exact .inr (.inr (.inr (.of_ebw h)))
  | obr o w =>
    rw [exec, execObr_eq] at h
    cases h; exact .inr (.inr (.inr (.of_respond _)))
  | obw o w => cases h; exact .inr (.inr (.inr (.of_errf _)))
  | rsvr r p o w => cases h; exact .inr (.inr (.inr (.of_respond _)))
  | rsvw r p o w => cases h; exact .inr (.inr (.inr (.of_errf _)))
  | nop => exact .inr (.inr (.inr (.of_command (w := 0) (by simp) (by simp) h)))
  | encode => exact .inr (.inr (.inr (.of_command (w := 1) (fun _ => .inl rfl) (by simp) h)))
  | decode => exact .inr (.inr (.inr (.of_command (w := 2) (by simp) (fun _ => .inl rfl) h)))
  | cmdRsvd w => cases h; exact .inr (.inr (.inr (.of_errf _)))
  | rxByte b => exact .inl (.inl ⟨b, rfl⟩)
  | rxExhausted b => exact .inl (.inr (.inl ⟨b, rfl⟩))
  | rxFault b => exact .inl (.inr (.inr (.inl ⟨b, rfl⟩)))
  | rxTimeout b => exact .inl (.inr (.inr (.inr ⟨b, rfl⟩)))
  | txAccept => exact .inr (.inl (.inl rfl))
  | txZero => exact .inr (.inl (.inr (.inl rfl)))
  | txFault => exact .inr (.inl (.inr (.inr (.inl rfl))))
  | txTimeout => exact .inr (.inl (.inr (.inr (.inr rfl))))
  | reset => exact .inr (.inr (.inl rfl))

/-- A symbol moves only the decoder, PBUF and OBUF (41 R86 to R90). -/
theorem symbol_keeps {i : Instr} {s t : State} (hi : i.IsSymbol) (h : exec i s = .next t) :
    t = { s with dec := t.dec, pbuf := t.pbuf, obuf := t.obuf } := by
  rcases hi with ⟨b, rfl⟩ | ⟨b, rfl⟩ | ⟨b, rfl⟩ | ⟨b, rfl⟩
  · rw [show exec (.rxByte b) s = execRxByte b s from rfl] at h
    rcases execRxByte_cases b s with ⟨_, e⟩ | ⟨_, _, e⟩ | ⟨_, _, e⟩ | ⟨_, e⟩ | ⟨_, e⟩ | ⟨_, _, e⟩ | ⟨_, _, e⟩ | ⟨_, _, e⟩ |
      ⟨_, _, e⟩ | ⟨_, _, e⟩ | ⟨_, _, e⟩ | ⟨_, _, _, e⟩ <;> rw [e] at h <;> cases h <;> rfl
  · rw [show exec (.rxExhausted b) s = execRxExhausted s from rfl, execRxExhausted_eq] at h
    cases h; split <;> rfl
  · cases h; simp only [State.endDecode]; split_ifs <;> rfl
  · cases h; simp only [State.endDecode]; split_ifs <;> rfl

/-- A symbol on a decoder that is not at CHECK leaves OBUF (41 R87, 20 R48). -/
theorem symbol_obuf {i : Instr} {s t : State} (hi : i.IsSymbol) (h : exec i s = .next t) :
    t.obuf = s.obuf ∨ (∃ b, i = .rxByte b) ∧ s.dec.state = .dChk ∧ s.copyLength ≤ s.params.obufSize.toNat ∧
      t.obuf = copyBytes s.pbufByte s.copyLength s.obuf := by
  rcases hi with ⟨b, rfl⟩ | ⟨b, rfl⟩ | ⟨b, rfl⟩ | ⟨b, rfl⟩
  · rw [show exec (.rxByte b) s = execRxByte b s from rfl] at h
    rcases execRxByte_cases b s with ⟨_, e⟩ | ⟨_, _, e⟩ | ⟨_, _, e⟩ | ⟨_, e⟩ | ⟨_, e⟩ | ⟨_, _, e⟩ | ⟨_, _, e⟩ | ⟨_, _, e⟩ |
      ⟨_, _, e⟩ | ⟨_, _, e⟩ | ⟨_, _, e⟩ | ⟨hs, _, hc, e⟩ <;> rw [e] at h <;> cases h
    all_goals first | exact .inl rfl | exact .inr ⟨⟨b, rfl⟩, hs, hc, rfl⟩
  · rw [show exec (.rxExhausted b) s = execRxExhausted s from rfl, execRxExhausted_eq] at h
    cases h; left; split <;> rfl
  · cases h; left; simp only [State.endDecode]; split_ifs <;> rfl
  · cases h; left; simp only [State.endDecode]; split_ifs <;> rfl

/-- An idle decoder takes no symbol (41 R83). -/
theorem symbol_idle {i : Instr} {s : State} (hi : i.IsSymbol) (hb : s.decBusy = false) : exec i s = .next s := by
  have hs : s.dec.state = .dIdle := by simpa [State.decBusy] using hb
  rcases hi with ⟨b, rfl⟩ | ⟨b, rfl⟩ | ⟨b, rfl⟩ | ⟨b, rfl⟩ <;>
    simp [exec, execRxByte, execRxExhausted, exhaustedCode, execRxFault, execRxTimeout, State.endDecode, hs, hb]

/-- A response moves only the encoder and the wire (42 R99 to R102). -/
theorem response_keeps {i : Instr} {s t : State} (hi : i.IsResponse) (h : exec i s = .next t) :
    t = { s with enc := t.enc, env := { s.env with wire := t.env.wire } } := by
  rcases hi with rfl | rfl | rfl | rfl
  · rw [show exec .txAccept s = execTxAccept s from rfl] at h
    rcases execTxAccept_cases s with ⟨_, e⟩ | ⟨_, _, _, _, _, e⟩ | ⟨_, _, _, _, e⟩ <;> rw [e] at h <;> cases h <;> rfl
  all_goals cases h; simp only [State.endEncode]; split_ifs <;> rfl

/-- An idle encoder takes no response (42 R96). -/
theorem response_idle {i : Instr} {s : State} (hi : i.IsResponse) (hb : s.encBusy = false) : exec i s = .next s := by
  have hs : s.enc.state = .eIdle := by simpa [State.encBusy] using hb
  rcases hi with rfl | rfl | rfl | rfl <;>
    simp [exec, execTxAccept, State.emit, execTxZero, execTxFault, execTxTimeout, State.endEncode, hs, hb]

end Sys2Proof.Machine
end

