-- ==== Sys2Proof/Laws/PerInstr.lean ====
section
/-! SUPPORT. Per instruction: the encoding of a well-formed instruction lies in its own row of the opcode table
(spec/opcode_table.json: width, mask and match), and in no other exact row. -/

namespace Sys2Proof.Laws.RowMatch

/-- A row's width, mask and match, as spec/opcode_table.json gives them. -/
structure Row where
  width : Nat
  mask : Nat
  value : Nat
  deriving DecidableEq, Repr

/-- How many bits an input has (30 R67). -/
def width : Packet → Nat
  | .hbr64 _ => 64
  | .cmd32 _ => 32
  | .rxsym10 _ => 10
  | .txrsp2 _ => 2
  | .resetEvent => 0

/-- The bits of an input as a number. -/
def bits : Packet → Nat
  | .hbr64 w => w.toNat
  | .cmd32 w => w.toNat
  | .rxsym10 w => w.toNat
  | .txrsp2 w => w.toNat
  | .resetEvent => 0

/-- The input matches the row. -/
def Matches (r : Row) (p : Packet) : Prop := width p = r.width ∧ bits p &&& r.mask = r.value

/-- The table's row of each instruction. -/
def rowOf : Instr → Row
  | .csrr _ _ => ⟨64, 0xFFFF, 0⟩
  | .csrw _ _ => ⟨64, 0xFFFF, 1⟩
  | .ebr _ _ => ⟨64, 0xFFFF, 2⟩
  | .ebw _ _ => ⟨64, 0xFFFF, 3⟩
  | .obr _ _ => ⟨64, 0xFFFF, 4⟩
  | .obw _ _ => ⟨64, 0xFFFF, 5⟩
  | .rsvr _ _ _ _ => ⟨64, 1, 0⟩
  | .rsvw _ _ _ _ => ⟨64, 1, 1⟩
  | .nop => ⟨32, 0xFFFFFFFF, 0⟩
  | .encode => ⟨32, 0xFFFFFFFF, 1⟩
  | .decode => ⟨32, 0xFFFFFFFF, 2⟩
  | .cmdRsvd _ => ⟨32, 0, 0⟩
  | .rxByte _ => ⟨10, 0x300, 0x000⟩
  | .rxExhausted _ => ⟨10, 0x300, 0x100⟩
  | .rxFault _ => ⟨10, 0x300, 0x200⟩
  | .rxTimeout _ => ⟨10, 0x300, 0x300⟩
  | .txAccept => ⟨2, 3, 0⟩
  | .txZero => ⟨2, 3, 1⟩
  | .txFault => ⟨2, 3, 2⟩
  | .txTimeout => ⟨2, 3, 3⟩
  | .reset => ⟨0, 0, 0⟩

/-- The rows that are no fallback: RSVR, RSVW and CMD_RSVD are tried after them (30 R65). -/
def exactRows : List Row :=
  [⟨64, 0xFFFF, 0⟩, ⟨64, 0xFFFF, 1⟩, ⟨64, 0xFFFF, 2⟩, ⟨64, 0xFFFF, 3⟩, ⟨64, 0xFFFF, 4⟩, ⟨64, 0xFFFF, 5⟩] ++
  [⟨32, 0xFFFFFFFF, 0⟩, ⟨32, 0xFFFFFFFF, 1⟩, ⟨32, 0xFFFFFFFF, 2⟩] ++
  [⟨10, 0x300, 0x000⟩, ⟨10, 0x300, 0x100⟩, ⟨10, 0x300, 0x200⟩, ⟨10, 0x300, 0x300⟩] ++
  [⟨2, 3, 0⟩, ⟨2, 3, 1⟩, ⟨2, 3, 2⟩, ⟨2, 3, 3⟩, ⟨0, 0, 0⟩]

/-- The instruction's encoding lies in its row, and no other exact row matches it. A fallback row is no exact row, so its
instructions match none. -/
def Statement (i : Instr) : Prop :=
  i.WellFormed → Matches (rowOf i) (encode i) ∧ ∀ r ∈ exactRows, Matches r (encode i) → r = rowOf i

/-- The low 16 bits of a request word: RSV, SPACE and RW. -/
theorem hbr64_low (rw : BitVec 1) (sp : BitVec 2) (rsv : BitVec 13) (off : Half) (wd : Word) :
    (hbr64 rw sp rsv off wd).toNat &&& 0xFFFF = rsv.toNat * 8 + sp.toNat * 2 + rw.toNat := by
  have h0 := rw.isLt
  have h1 := sp.isLt
  have h2 := rsv.isLt
  rw [hbr64_toNat, show (0xFFFF : Nat) = 2 ^ 16 - 1 from rfl, Nat.and_two_pow_sub_one_eq_mod]
  omega

/-- Bit 0 of a request word: RW. -/
theorem hbr64_bit0 (rw : BitVec 1) (sp : BitVec 2) (rsv : BitVec 13) (off : Half) (wd : Word) :
    (hbr64 rw sp rsv off wd).toNat &&& 1 = rw.toNat := by
  have h0 := rw.isLt
  rw [hbr64_toNat, Nat.and_one_is_mod]
  omega

/-- A command word under the full mask. -/
theorem cmd_full (w : Word) : w.toNat &&& 0xFFFFFFFF = w.toNat := by
  rw [show (0xFFFFFFFF : Nat) = 2 ^ 32 - 1 from rfl, Nat.and_two_pow_sub_one_eq_mod]
  exact Nat.mod_eq_of_lt w.isLt

/-- The KIND bits of a symbol. -/
theorem rxsym10_kind (k : BitVec 2) (d : Byte) : (rxsym10 k d).toNat &&& 0x300 = k.toNat * 256 := by
  have h0 := d.isLt
  rw [rxsym10_toNat]
  rw [show k.toNat * 2 ^ 8 + d.toNat = k.toNat <<< 8 ||| d.toNat from (shift_or_eq_add _ _ 8 h0).symm]
  rw [Nat.and_or_distrib_right]
  have e1 : d.toNat &&& 0x300 = 0 := by
    apply Nat.eq_of_testBit_eq
    intro i
    rw [Nat.testBit_and, Nat.zero_testBit]
    by_cases hi : i < 8
    · have : Nat.testBit 0x300 i = false := by
        have : ∀ i, i < 8 → Nat.testBit 0x300 i = false := by decide
        exact this i hi
      rw [this, Bool.and_false]
    · have : d.toNat < 2 ^ i := Nat.lt_of_lt_of_le h0 (Nat.pow_le_pow_right (by omega) (by omega))
      rw [Nat.testBit_lt_two_pow this, Bool.false_and]
  rw [e1, Nat.or_zero]
  rcases two_bit_cases k with rfl | rfl | rfl | rfl <;> rfl

/-- An exact request row: one whose low 16 bits are SPACE and RW alone. -/
theorem exact_request (i : Instr) (rw : BitVec 1) (sp : BitVec 2) (off : Half) (wd : Word)
    (he : encode i = .hbr64 (hbr64 rw sp 0 off wd)) (hr : rowOf i = ⟨64, 0xFFFF, sp.toNat * 2 + rw.toNat⟩) :
    Statement i := by
  intro _
  have e := hbr64_low rw sp 0 off wd
  replace e : (hbr64 rw sp 0 off wd).toNat &&& 0xFFFF = sp.toNat * 2 + rw.toNat := e.trans (by simp)
  rw [he, hr]
  refine ⟨⟨rfl, e⟩, fun r hm h => ?_⟩
  obtain ⟨h1, h2⟩ := h
  simp only [exactRows, List.cons_append, List.nil_append, List.mem_cons, List.not_mem_nil, or_false] at hm
  rcases hm with rfl | rfl | rfl | rfl | rfl | rfl | rfl | rfl | rfl | rfl | rfl | rfl | rfl | rfl | rfl | rfl | rfl | rfl <;>
    simp only [width, bits] at h1 h2 <;> first | omega | (congr 1; omega)

/-- A reserved request: its low 16 bits are those of no exact row. -/
theorem reserved_request (i : Instr) (rw : BitVec 1) (sp : BitVec 2) (rsv : BitVec 13) (off : Half) (wd : Word)
    (hw : ReservedRequest rsv sp) (he : encode i = .hbr64 (hbr64 rw sp rsv off wd)) (hr : rowOf i = ⟨64, 1, rw.toNat⟩) :
    Matches (rowOf i) (encode i) ∧ ∀ r ∈ exactRows, Matches r (encode i) → r = rowOf i := by
  have e := hbr64_low rw sp rsv off wd
  have h0 := rw.isLt
  have hbig : 5 < rsv.toNat * 8 + sp.toNat * 2 + rw.toNat := by
    rcases hw with h | h
    · have : rsv.toNat ≠ 0 := fun h' => h (BitVec.eq_of_toNat_eq h')
      omega
    · subst h
      show 5 < rsv.toNat * 8 + 3 * 2 + rw.toNat
      omega
  rw [he, hr]
  refine ⟨⟨rfl, hbr64_bit0 rw sp rsv off wd⟩, fun r hm h => ?_⟩
  obtain ⟨h1, h2⟩ := h
  simp only [exactRows, List.cons_append, List.nil_append, List.mem_cons, List.not_mem_nil, or_false] at hm
  rcases hm with rfl | rfl | rfl | rfl | rfl | rfl | rfl | rfl | rfl | rfl | rfl | rfl | rfl | rfl | rfl | rfl | rfl | rfl <;>
    simp only [width, bits] at h1 h2 <;> omega

/-- A symbol: its KIND names its row. -/
theorem symbol (i : Instr) (k : BitVec 2) (d : Byte) (he : encode i = .rxsym10 (rxsym10 k d))
    (hr : rowOf i = ⟨10, 0x300, k.toNat * 256⟩) : Statement i := by
  intro _
  have e := rxsym10_kind k d
  rw [he, hr]
  refine ⟨⟨rfl, e⟩, fun r hm h => ?_⟩
  obtain ⟨h1, h2⟩ := h
  simp only [exactRows, List.cons_append, List.nil_append, List.mem_cons, List.not_mem_nil, or_false] at hm
  rcases hm with rfl | rfl | rfl | rfl | rfl | rfl | rfl | rfl | rfl | rfl | rfl | rfl | rfl | rfl | rfl | rfl | rfl | rfl <;>
    simp only [width, bits] at h1 h2 <;> first | omega | (congr 1; omega)

theorem csrr (offset : Half) (wdata : Word) : Statement (.csrr offset wdata) := exact_request _ 0 0 offset wdata rfl rfl
theorem csrw (offset : Half) (wdata : Word) : Statement (.csrw offset wdata) := exact_request _ 1 0 offset wdata rfl rfl
theorem ebr (offset : Half) (wdata : Word) : Statement (.ebr offset wdata) := exact_request _ 0 1 offset wdata rfl rfl
theorem ebw (offset : Half) (wdata : Word) : Statement (.ebw offset wdata) := exact_request _ 1 1 offset wdata rfl rfl
theorem obr (offset : Half) (wdata : Word) : Statement (.obr offset wdata) := exact_request _ 0 2 offset wdata rfl rfl
theorem obw (offset : Half) (wdata : Word) : Statement (.obw offset wdata) := exact_request _ 1 2 offset wdata rfl rfl

theorem rsvr (rsv : BitVec 13) (space : BitVec 2) (offset : Half) (wdata : Word) :
    Statement (.rsvr rsv space offset wdata) :=
  fun h => reserved_request _ 0 space rsv offset wdata (of_decide_eq_true h) rfl rfl

theorem rsvw (rsv : BitVec 13) (space : BitVec 2) (offset : Half) (wdata : Word) :
    Statement (.rsvw rsv space offset wdata) :=
  fun h => reserved_request _ 1 space rsv offset wdata (of_decide_eq_true h) rfl rfl

theorem nop : Statement .nop := fun _ => ⟨⟨rfl, rfl⟩, by unfold Matches; decide⟩
theorem encode : Statement .encode := fun _ => ⟨⟨rfl, rfl⟩, by unfold Matches; decide⟩
theorem decode : Statement .decode := fun _ => ⟨⟨rfl, rfl⟩, by unfold Matches; decide⟩

theorem cmdRsvd (w : Word) : Statement (.cmdRsvd w) := by
  intro h
  obtain ⟨h0, h1, h2⟩ : ReservedCommand w := of_decide_eq_true h
  have e := cmd_full w
  replace h0 : w.toNat ≠ 0 := fun h => h0 (BitVec.eq_of_toNat_eq h)
  replace h1 : w.toNat ≠ 1 := fun h => h1 (BitVec.eq_of_toNat_eq h)
  replace h2 : w.toNat ≠ 2 := fun h => h2 (BitVec.eq_of_toNat_eq h)
  refine ⟨⟨rfl, Nat.and_zero _⟩, fun r hm hr => ?_⟩
  obtain ⟨g1, g2⟩ := hr
  simp only [exactRows, List.cons_append, List.nil_append, List.mem_cons, List.not_mem_nil, or_false] at hm
  rcases hm with rfl | rfl | rfl | rfl | rfl | rfl | rfl | rfl | rfl | rfl | rfl | rfl | rfl | rfl | rfl | rfl | rfl | rfl <;>
    simp only [width, bits, Sys2Proof.encode] at g1 g2 <;> omega

theorem rxByte (data : Byte) : Statement (.rxByte data) := symbol _ 0 data rfl rfl
theorem rxExhausted (data : Byte) : Statement (.rxExhausted data) := symbol _ 1 data rfl rfl
theorem rxFault (data : Byte) : Statement (.rxFault data) := symbol _ 2 data rfl rfl
theorem rxTimeout (data : Byte) : Statement (.rxTimeout data) := symbol _ 3 data rfl rfl

theorem txAccept : Statement .txAccept := fun _ => ⟨⟨rfl, rfl⟩, by unfold Matches; decide⟩
theorem txZero : Statement .txZero := fun _ => ⟨⟨rfl, rfl⟩, by unfold Matches; decide⟩
theorem txFault : Statement .txFault := fun _ => ⟨⟨rfl, rfl⟩, by unfold Matches; decide⟩
theorem txTimeout : Statement .txTimeout := fun _ => ⟨⟨rfl, rfl⟩, by unfold Matches; decide⟩
theorem reset : Statement .reset := fun _ => ⟨⟨rfl, rfl⟩, by unfold Matches; decide⟩

end Sys2Proof.Laws.RowMatch
end

