-- ==== Sys2Proof/Tests/Slice0.lean ====
section
/-! SUPPORT. Tests: what the well-formedness checks refuse, words written out from the spec's encodings, single steps
with the results that spec 95 and the rules' examples give, and a witness for the hypotheses of each statement. -/

open Sys2Proof Sys2Proof.Machine

namespace Sys2Proof.Tests

/-! ## Well-formedness -/

theorem test_rsvr_needs_a_reserved_bit : ¬ (Instr.rsvr 0 0 4 0).WellFormed ∧ ¬ (Instr.rsvr 0 2 4 0).WellFormed := by decide
theorem test_rsvw_needs_a_reserved_bit : ¬ (Instr.rsvw 0 1 4 0).WellFormed ∧ ¬ (Instr.rsvw 0 0 0 1).WellFormed := by decide
theorem test_cmdRsvd_is_no_command :
    ¬ (Instr.cmdRsvd 0).WellFormed ∧ ¬ (Instr.cmdRsvd 1).WellFormed ∧ ¬ (Instr.cmdRsvd 2).WellFormed := by decide
theorem test_reserved_rows_are_well_formed :
    (Instr.rsvr 1 0 4 0).WellFormed ∧ (Instr.rsvw 0 3 0 0).WellFormed ∧ (Instr.cmdRsvd 3).WellFormed := by decide

/-! ## Decoding: words from 30 R60 to R62, RSV SPACE RW in the low 16 bits, and from the examples of 40 -/

theorem test_decode_csrr : decode (.hbr64 0b0000000000000100_0000000000000_00_0) = .csrr 4 0 := by decide
theorem test_decode_csrw : decode (.hbr64 (0x00010005 <<< 32 ||| 0b0000000000000100_0000000000000_00_1)) = .csrw 4 0x10005 := by
  decide
theorem test_decode_ebr : decode (.hbr64 0b0000000000000101_0000000000000_01_0) = .ebr 5 0 := by decide
theorem test_decode_ebw : decode (.hbr64 (0x1234 <<< 32 ||| 0b0000000000000101_0000000000000_01_1)) = .ebw 5 0x1234 := by
  decide
theorem test_decode_obr : decode (.hbr64 0b0000000000000001_0000000000000_10_0) = .obr 1 0 := by decide
theorem test_decode_obw : decode (.hbr64 (0x55 <<< 32 ||| 0b0000000000000000_0000000000000_10_1)) = .obw 0 0x55 := by decide
theorem test_decode_rsvr : decode (.hbr64 0b0000000000000000_0000000000000_11_0) = .rsvr 0 3 0 0 := by decide
theorem test_decode_rsvr_bit15 : decode (.hbr64 0b0000000000000100_1000000000000_00_0) = .rsvr 0x1000 0 4 0 := by decide
theorem test_decode_rsvw : decode (.hbr64 (0x1 <<< 32 ||| 0b0000000000000000_0000000000001_00_1)) = .rsvw 1 0 0 1 := by
  decide
theorem test_decode_nop : decode (.cmd32 0x00000000) = .nop := by decide
theorem test_decode_encode : decode (.cmd32 0x00000001) = .encode := by decide
theorem test_decode_decode : decode (.cmd32 0x00000002) = .decode := by decide
theorem test_decode_cmdRsvd :
    decode (.cmd32 0x00000003) = .cmdRsvd 3 ∧ decode (.cmd32 0x00000011) = .cmdRsvd 0x11 ∧
      decode (.cmd32 0x80000001) = .cmdRsvd 0x80000001 := by decide
theorem test_decode_rxByte : decode (.rxsym10 0b00_01111110) = .rxByte 0x7E := by decide
theorem test_decode_rxExhausted : decode (.rxsym10 0b01_00000010) = .rxExhausted 2 := by decide
theorem test_decode_rxFault : decode (.rxsym10 0b10_00000000) = .rxFault 0 := by decide
theorem test_decode_rxTimeout : decode (.rxsym10 0b11_11111111) = .rxTimeout 0xFF := by decide
theorem test_decode_txAccept : decode (.txrsp2 0b00) = .txAccept := by decide
theorem test_decode_txZero : decode (.txrsp2 0b01) = .txZero := by decide
theorem test_decode_txFault : decode (.txrsp2 0b10) = .txFault := by decide
theorem test_decode_txTimeout : decode (.txrsp2 0b11) = .txTimeout := by decide
theorem test_decode_reset : decode .resetEvent = .reset := by decide
theorem test_table_words :
    decodeTableWord 64 0x0000004200010003 = some (.ebw 1 0x42) ∧ decodeTableWord 32 2 = some .decode ∧
      decodeTableWord 16 0x300 = some (.rxTimeout 0) ∧ decodeTableWord 8 1 = some .txZero ∧
      decodeTableWord 0 0 = some .reset ∧ decodeTableWord 16 0x400 = none ∧ decodeTableWord 24 0 = none := by decide

/-! ## Small states

An instance with OBUF_SIZE = 16 and, so that values can be written down, a CHECK_PLACEHOLDER of 0x5A: an argument of these
tests, not a value the model assumes. -/

/-- The test instance. -/
def small : Params := ⟨16, 0x5A, .placeholder⟩

/-- An instance whose policy refuses CHECK 0x55 for the empty payload (V-C3's Q). -/
def refusing : Params := ⟨16, 0x5A, .other 0 [] [([], 0x55)]⟩

/-- Right after reset. -/
def s0 : State := State.resetOf small

/-- A decoder in a given step, and PBUF. -/
def decAt (p : Params) (d : Decoder) (pbuf : Memory) : State := { State.resetOf p with dec := d, pbuf := pbuf }

/-- An encoder in a given step, and EBUF. -/
def encAt (e : Encoder) (ebuf : Memory) : State := { s0 with enc := e, ebuf := ebuf }

/-- Decoder variables by step: `d_cap`, `d_len`, `d_idx`, `d_count`, LENGTH taken or not. -/
def decoder (st : DState) (cap len idx : Half) (count : Count) (valid : Bool) : Decoder :=
  { Decoder.atReset with state := st, cap := cap, len := len, idx := idx, count := count, lenValid := valid }

/-- Encoder variables by step: `e_len`, `e_idx`, `e_count`. -/
def encoder (st : EState) (len idx : Half) (count : Count) : Encoder :=
  { Encoder.atReset with state := st, len := len, idx := idx, count := count, chk := 0x5A }

/-- Something of the next state, where there is one. -/
def view {α : Type} (f : State → α) : Host.Outcome State Fault Refusal → Option α
  | .next t => some (f t)
  | .fault _ => none
  | .refused _ => none

/-! ## One step each -/

/-- V-H7 and, for a reserved index, V-H3. -/
theorem test_csrr :
    view (·.env.responses) (exec (.csrr 4 0) s0) = some [16] ∧ view (·.env.responses) (exec (.csrr 0xA 0) s0) = some [0] := by
  decide
/-- V-D29: a busy decoder's status. -/
theorem test_csrr_busy :
    view (·.env.responses) (exec (.csrr 5 0) (decAt small (decoder .dLenlo 16 0 0 2 false) [])) = some [1] := by decide
/-- V-H6, V-H5. -/
theorem test_csrw_decCap :
    view (·.decCap) (exec (.csrw 4 100) s0) = some 16 ∧ view (·.decCap) (exec (.csrw 4 0x10005) s0) = some 5 := by decide
/-- `clrerr` of 30 R69, and V-H8. -/
theorem test_csrw_errf :
    view (·.errf) (exec (.csrw 9 0x1D) { s0 with errf := 0x1F }) = some 2 ∧ view (·.errf) (exec (.csrw 2 5) s0) = some 0x10 := by
  decide
/-- V-H15. -/
theorem test_ebr :
    view (·.env.responses) (exec (.ebr 5 0) { s0 with ebuf := [(5, 0x34)] }) = some [0x34] ∧
      view (·.env.responses) (exec (.ebr 0xFFFF 0) s0) = some [0] := by decide
/-- V-H15, V-H16 and V-H17. -/
theorem test_ebw :
    view (·.ebuf) (exec (.ebw 5 0x1234) s0) = some [(5, 0x34)] ∧
      view (·.ebuf) (exec (.ebw 0xFFFE 0x7A) s0) = some [(65534, 0x7A)] ∧
      view (fun t => (t.ebuf, t.errf)) (exec (.ebw 0xFFFF 0x7A) s0) = some ([], 0x10) := by decide
/-- V-E15. -/
theorem test_ebw_busy :
    view (fun t => (t.ebuf, t.errf)) (exec (.ebw 1 0x99) (encAt (encoder .eStart 2 0 0) [(0, 0x41), (1, 0x42)])) =
      some ([(0, 0x41), (1, 0x42)], 4) := by decide
/-- The example of 40 R77, and its range. -/
theorem test_obr :
    view (·.env.responses) (exec (.obr 1 0) { s0 with obuf := [(0, 0x41), (1, 0x42)] }) = some [0x42] ∧
      view (·.env.responses) (exec (.obr 16 0) s0) = some [0] := by decide
/-- V-H18. -/
theorem test_obw : view (fun t => (t.obuf, t.errf)) (exec (.obw 0 0x55) s0) = some ([], 0x10) := by decide
/-- The example of 40 R79. -/
theorem test_rsvr : view (fun t => (t.env.responses, t.errf)) (exec (.rsvr 0 3 0 0) s0) = some ([0], 0) := by decide
/-- The example of 40 R80: ENCODE with RSV bit 3 set. -/
theorem test_rsvw : view (fun t => (t.encBusy, t.errf)) (exec (.rsvw 1 0 0 1) s0) = some (false, 0x10) := by decide
/-- V-H14. -/
theorem test_nop : exec .nop s0 = .next s0 := rfl
/-- The example of 42 R98. -/
theorem test_encode :
    view (fun t => (t.csrRead 2, t.emit, t.enc.chk)) (exec .encode { s0 with encLen := 2, ebuf := [(0, 0x41), (1, 0x42)] }) =
      some (1, some 0x02, 0x5A) := by decide
/-- V-E13. -/
theorem test_encode_busy :
    view (fun t => (t.errf, t.enc)) (exec .encode (encAt (encoder .eLenhi 0 0 1) [])) = some (1, encoder .eLenhi 0 0 1) := by
  decide
/-- The example of 41 R85. -/
theorem test_decode : view (fun t => (t.csrRead 5, t.dec.cap)) (exec .decode { s0 with decCap := 3 }) = some (1, 3) := by decide
/-- V-D30. -/
theorem test_decode_busy :
    view (fun t => (t.errf, t.dec.state)) (exec .decode (decAt small (decoder .dLenhi 16 0 0 1 false) [])) =
      some (2, .dLenhi) := by decide
/-- The example of 40 R74. -/
theorem test_cmdRsvd : view (fun t => (t.errf, t.csrRead 2, t.csrRead 5)) (exec (.cmdRsvd 3) s0) = some (8, 0, 0) := by decide
/-- V-D7. -/
theorem test_rxByte_header :
    view (fun t => (t.csrRead 5, t.csrRead 7)) (exec (.rxByte 0x7E) s0.startDecode) = some (0x12, 1) := by decide
/-- The last byte of V-D19: capacity 1, payload 10 20 30. -/
theorem test_rxByte_check :
    view (fun t => [t.csrRead 5, t.csrRead 6, t.csrRead 7, t.csrRead 8])
        (exec (.rxByte 0x5A) (decAt small (decoder .dChk 1 3 3 7 true) [(0, 0x10), (1, 0x20), (2, 0x30)])) =
      some [0x62, 0x10003, 8, 0x15A] ∧
    view (·.obuf) (exec (.rxByte 0x5A) (decAt small (decoder .dChk 1 3 3 7 true) [(0, 0x10), (1, 0x20), (2, 0x30)])) =
      some [(0, 0x10)] := by decide
/-- The last symbol of V-D14. -/
theorem test_rxExhausted :
    view (fun t => (t.csrRead 5, t.csrRead 6, t.csrRead 7))
        (exec (.rxExhausted 0) (decAt small (decoder .dPay 16 3 1 4 true) [(0, 0x41)])) = some (0x32, 0x10003, 4) := by decide
/-- V-D15: LENGTH 0, then no END. -/
theorem test_rxExhausted_trailer :
    view (·.csrRead 5) (exec (.rxExhausted 0) (decAt small (decoder .dTrl 16 0 0 3 true) [])) = some 0x42 := by decide
/-- The last symbol of V-D24. -/
theorem test_rxFault :
    view (fun t => (t.csrRead 5, t.csrRead 7, t.csrRead 6))
      (exec (.rxFault 0) (decAt small (decoder .dLenlo 16 0 0 2 false) [])) = some (0x72, 2, 0) := by decide
/-- The last symbol of V-D26. -/
theorem test_rxTimeout :
    view (fun t => (t.csrRead 5, t.csrRead 7))
      (exec (.rxTimeout 0) (decAt small (decoder .dLenhi 16 0 0 1 false) [])) = some (0x82, 1) := by decide
/-- The last byte of V-E1: CHECK. -/
theorem test_txAccept_check :
    view (fun t => (t.csrRead 2, t.csrRead 3, t.env.wire))
        (exec .txAccept (encAt (encoder .eChk 2 2 6) [(0, 0x41), (1, 0x42)])) = some (2, 7, [0x5A]) := by decide
/-- A payload byte of V-E1, and LEN_LO of V-E2, after which no payload comes. -/
theorem test_txAccept_payload :
    view (fun t => (t.env.wire, t.enc.state)) (exec .txAccept (encAt (encoder .ePay 2 1 4) [(0, 0x41), (1, 0x42)])) =
        some ([0x42], .eEnd) ∧
      view (fun t => (t.env.wire, t.enc.state)) (exec .txAccept (encAt (encoder .eLenlo 0 0 2) [])) =
        some ([0], .eEnd) := by decide
/-- The last response of V-E7. -/
theorem test_txZero :
    view (fun t => (t.csrRead 2, t.csrRead 3)) (exec .txZero (encAt (encoder .ePay 1 0 3) [(0, 0x55)])) = some (0x92, 3) := by
  decide
/-- The last response of V-E9. -/
theorem test_txFault :
    view (fun t => (t.csrRead 2, t.csrRead 3)) (exec .txFault (encAt (encoder .eLenlo 1 0 2) [])) = some (0xA2, 2) := by decide
/-- The last response of V-E10. -/
theorem test_txTimeout :
    view (fun t => (t.csrRead 2, t.csrRead 3)) (exec .txTimeout (encAt (encoder .eChk 0 0 4) [])) = some (0xB2, 4) := by decide
/-- V-R4 and V-R5. -/
theorem test_reset :
    view (fun t => (t.csrRead 9, t.csrRead 4)) (exec .reset { s0 with errf := 0x1F, decCap := 5 }) = some (0, 16) := by decide
/-- V-R2: the sink keeps its bytes. -/
theorem test_reset_busy :
    view (fun t => (t.csrRead 2, t.env.wire, t.emit))
        (exec .reset { encAt (encoder .ePay 2 0 3) [] with env := { Env.quiet with wire := [2, 0, 2] } }) =
      some (0, [2, 0, 2], none) := by decide
/-- V-C3 and, with the capacity below LENGTH, V-C4: a refused CHECK byte. -/
theorem test_checksum_mismatch :
    view (fun t => (t.csrRead 5, t.csrRead 7, t.csrRead 8, t.obuf))
      (exec (.rxByte 0x55) (decAt refusing (decoder .dChk 16 0 0 4 true) [])) = some (0xC2, 5, 0x155, []) := by decide
/-- The example of 40 R70, through the bits, the fetch and the step, at the default instance. -/
theorem test_step_placed :
    view (·.env.responses) (step (State.reset.withFetchWord 64 0x0000000000040000)) = some [0xFFFF] := by decide
/-- A symbol runs first after reset: V-D10. -/
theorem test_step_placed_symbol :
    view (fun t => (t.csrRead 5, t.csrRead 7)) (step (State.reset.withFetchWord 16 0x102)) = some (0x12, 0) := by decide
/-- A byte that nothing has written reads as the free value and stops nothing (70 R130; log 5). -/
theorem test_unwritten_reads :
    exec (.ebr 3 0) s0 = .next (s0.respond ((Config.unwritten .ebuf 0 3).setWidth 32)) := rfl
/-- Reset memory is in canonical form. -/
theorem test_reset_memory_wf : State.reset.ebuf.wf ∧ State.reset.pbuf.wf ∧ State.reset.obuf.wf := by decide

/-! ## States that meet the invariant -/

theorem reset_memory (p : Params) : MemoryInv (State.resetOf p) :=
  ⟨Memory.wf_nil, fun _ h => absurd h (List.not_mem_nil), Memory.wf_nil, fun _ h => absurd h (List.not_mem_nil),
    Memory.wf_nil, fun _ h => absurd h (List.not_mem_nil)⟩

/-- A busy decoder in a legal position meets the invariant. -/
theorem decAt_inv (p : Params) (d : Decoder) (m : Memory) (hm : m.wf ∧ m.within pbufSize)
    (hc : d.cap.toNat ≤ p.obufSize.toNat) (hs : d.state ≠ .dIdle) (hd : d.done = false ∧ d.code = .ok ∧ d.chk = 0)
    (hl : d.lenValid = false → d.len = 0) (hp : d.Position) (hw : ∀ i, i < d.idx.toNat → (m.read i).isSome = true) :
    Inv (decAt p d m) :=
  ⟨⟨Memory.wf_nil, (reset_memory p).ebuf_within, hm.1, hm.2, Memory.wf_nil, (reset_memory p).obuf_within⟩,
    ⟨Nat.le_refl _, hc, fun _ => hd.1, fun _ => hd.2.1, hl, fun _ => hd.2.2, hp,
      fun h => absurd (decide_eq_true hs) (ne_true_of_eq_false h),
      fun h => (Bool.false_ne_true (hd.1.symm.trans h)).elim, hw⟩,
    ⟨fun _ => rfl, fun _ => rfl, trivial, fun _ _ => rfl, fun h => (Bool.false_ne_true h).elim,
      fun h => (Bool.false_ne_true h).elim, fun h => (Bool.false_ne_true h).elim⟩⟩

/-- A busy encoder in a legal position, with the wire it has made, meets the invariant. -/
theorem encAt_inv (e : Encoder) (m : Memory) (w : List Byte) (hm : m.wf ∧ m.within ebufSize) (hd : e.done = false ∧ e.code = .ok)
    (hs : e.state ≠ .eIdle) (hp : e.Position) (hk : e.chk = 0x5A)
    (hw : w = (encAt e m).encFrame.take e.count.toNat) : Inv { encAt e m with env := { Env.quiet with wire := w } } :=
  ⟨⟨hm.1, hm.2, Memory.wf_nil, (reset_memory small).pbuf_within, Memory.wf_nil, (reset_memory small).obuf_within⟩,
    ⟨Nat.le_refl _, Nat.zero_le _, fun _ => rfl, fun _ => rfl, fun _ => rfl, fun _ => rfl, trivial, fun _ _ => rfl,
      fun h => (Bool.false_ne_true h).elim, fun i h => absurd h (Nat.not_lt_zero i)⟩,
    ⟨fun _ => hd.1, fun _ => hd.2, hp, fun h => absurd (decide_eq_true hs) (ne_true_of_eq_false h),
      fun h => (Bool.false_ne_true (hd.1.symm.trans h)).elim, fun _ => hk, fun _ => ⟨[], hw⟩⟩⟩

theorem hdr_inv : Inv (decAt small (decoder .dHdr 16 0 0 0 false) []) :=
  decAt_inv _ _ _ (by decide) (by decide) (by decide) (by decide) (by decide) ⟨rfl, rfl, rfl⟩ (by decide)
theorem lenhi_inv : Inv (decAt small (decoder .dLenhi 16 0 0 1 false) []) :=
  decAt_inv _ _ _ (by decide) (by decide) (by decide) (by decide) (by decide) ⟨rfl, rfl, rfl⟩ (by decide)
theorem pay_inv : Inv (decAt small (decoder .dPay 16 2 1 4 true) [(0, 0x41)]) :=
  decAt_inv _ _ _ (by decide) (by decide) (by decide) (by decide) (by decide) ⟨rfl, by decide, rfl, rfl⟩ (by decide)
theorem trl_inv : Inv (decAt small (decoder .dTrl 16 0 0 3 true) []) :=
  decAt_inv _ _ _ (by decide) (by decide) (by decide) (by decide) (by decide) ⟨rfl, rfl, rfl, rfl⟩ (by decide)
theorem chk_inv (p : Params) (h : (16 : Half).toNat ≤ p.obufSize.toNat) : Inv (decAt p (decoder .dChk 16 0 0 4 true) []) :=
  decAt_inv _ _ _ (by decide) h (by decide) (by decide) (by decide) ⟨rfl, rfl, rfl, rfl⟩
    (fun i hi => absurd hi (Nat.not_lt_zero i))
theorem short_inv : Inv (decAt small (decoder .dChk 0 1 1 5 true) [(0, 0x41)]) :=
  decAt_inv _ _ _ (by decide) (by decide) (by decide) (by decide) (by decide) ⟨rfl, rfl, rfl, rfl⟩ (by decide)
theorem start_inv : Inv { encAt (encoder .eStart 0 0 0) [] with env := Env.quiet } :=
  encAt_inv _ _ [] (by decide) (by decide) (by decide) ⟨rfl, rfl⟩ rfl rfl
theorem echk_inv : Inv { encAt (encoder .eChk 0 0 4) [] with env := { Env.quiet with wire := [2, 0, 0, 3] } } :=
  encAt_inv _ _ _ (by decide) (by decide) (by decide) ⟨rfl, rfl⟩ rfl (by decide)

/-! ## Witnesses: the hypotheses of the statements can be met -/

/-- EveryStepKeepsTheInvariant, NoStepStopsTheMachine, NoStepChangesTheParameters: a busy decoder with a symbol coming. -/
theorem witness_step :
    Inv ((decAt small (decoder .dHdr 16 0 0 0 false) []).withFetchWord 16 0x002) ∧
      ∃ t, step ((decAt small (decoder .dHdr 16 0 0 0 false) []).withFetchWord 16 0x002) = .next t ∧ t.dec.state = .dLenhi :=
  ⟨⟨⟨hdr_inv.memory.1, hdr_inv.memory.2, hdr_inv.memory.3, hdr_inv.memory.4, hdr_inv.memory.5, hdr_inv.memory.6⟩,
      ⟨hdr_inv.decoder.1, hdr_inv.decoder.2, hdr_inv.decoder.3, hdr_inv.decoder.4, hdr_inv.decoder.5, hdr_inv.decoder.6,
        hdr_inv.decoder.7, hdr_inv.decoder.8, hdr_inv.decoder.9, hdr_inv.decoder.10⟩,
      ⟨hdr_inv.encoder.1, hdr_inv.encoder.2, hdr_inv.encoder.3, hdr_inv.encoder.4, hdr_inv.encoder.5, hdr_inv.encoder.6,
        fun h => (Bool.false_ne_true h).elim⟩⟩,
    _, rfl, rfl⟩

/-- StepRunsTheNextEvent: each agent with and without something to give. -/
theorem witness_StepRunsTheNextEvent :
    s0.env.schedule = [] ∧
    (∃ s : State, s.env.schedule = [.host] ∧ s.env.hostRequests = []) ∧
    (∃ s : State, s.env.schedule = [.host] ∧ s.env.hostRequests = [0x1]) ∧
    (∃ s : State, s.env.schedule = [.rxSource] ∧ s.decBusy = false ∧ s.env.rxSymbols = [0x002]) ∧
    (∃ s : State, s.env.schedule = [.rxSource] ∧ s.decBusy = true ∧ s.env.rxSymbols = []) ∧
    (∃ s : State, s.env.schedule = [.rxSource] ∧ s.decBusy = true ∧ s.env.rxSymbols = [0x002]) ∧
    (∃ s : State, s.env.schedule = [.txSink] ∧ s.encBusy = false ∧ s.env.txResponses = [0]) ∧
    (∃ s : State, s.env.schedule = [.txSink] ∧ s.encBusy = true ∧ s.env.txResponses = []) ∧
    (∃ s : State, s.env.schedule = [.txSink] ∧ s.encBusy = true ∧ s.env.txResponses = [0]) ∧
    (∃ s : State, s.env.schedule = [.resetLine]) :=
  ⟨rfl,
    ⟨{ s0 with env := { Env.quiet with schedule := [.host] } }, rfl, rfl⟩,
    ⟨{ s0 with env := { Env.quiet with schedule := [.host], hostRequests := [0x1] } }, rfl, rfl⟩,
    ⟨{ s0 with env := { Env.quiet with schedule := [.rxSource], rxSymbols := [0x002] } }, rfl, rfl, rfl⟩,
    ⟨{ s0.startDecode with env := { Env.quiet with schedule := [.rxSource] } }, rfl, rfl, rfl⟩,
    ⟨{ s0.startDecode with env := { Env.quiet with schedule := [.rxSource], rxSymbols := [0x002] } }, rfl, rfl, rfl⟩,
    ⟨{ s0 with env := { Env.quiet with schedule := [.txSink], txResponses := [0] } }, rfl, rfl, rfl⟩,
    ⟨{ s0.startEncode with env := { Env.quiet with schedule := [.txSink] } }, rfl, rfl, rfl⟩,
    ⟨{ s0.startEncode with env := { Env.quiet with schedule := [.txSink], txResponses := [0] } }, rfl, rfl, rfl⟩,
    ⟨{ s0 with env := { Env.quiet with schedule := [.resetLine] } }, rfl⟩⟩

/-- IdleUnitsTakeNothing: idle units with a symbol and a response waiting, and a step that goes on. -/
theorem witness_IdleUnitsTakeNothing :
    (Instr.rxByte 2).IsSymbol ∧ Instr.txAccept.IsResponse ∧ s0.decBusy = false ∧ s0.encBusy = false ∧
      ∃ t, step { s0 with env := { Env.quiet with
        schedule := [.rxSource, .txSink], rxSymbols := [2], txResponses := [0] } } = .next t :=
  ⟨.inl ⟨2, rfl⟩, .inl rfl, rfl, rfl, _, rfl⟩

/-- DecodeOfEncodeIsTheInstruction: one of each kind of row, fallbacks at their least values. -/
theorem witness_DecodeOfEncodeIsTheInstruction :
    (Instr.csrw 0xFFFF 0xFFFFFFFF).WellFormed ∧ (Instr.rsvr 1 0 0 0).WellFormed ∧ (Instr.rsvw 0 3 0 0).WellFormed ∧
      (Instr.cmdRsvd 3).WellFormed ∧ (Instr.rxTimeout 0xFF).WellFormed ∧ Instr.txZero.WellFormed := by decide

/-- LengthBytesAreInverse. -/
theorem witness_LengthBytesAreInverse :
    (decAt small (decoder .dLenlo 16 0 0 2 false) []).dec.state = .dLenlo ∧
      (encAt (encoder .eLenhi 0x0100 0 1) []).enc.state = .eLenhi ∧
      (encAt (encoder .eLenlo 0x0100 0 2) []).enc.state = .eLenlo := by decide

/-- CsrReadReturnsTheRegister: busy units in states that meet the invariant. -/
theorem witness_CsrReadReturnsTheRegister :
    (Inv (decAt small (decoder .dHdr 16 0 0 0 false) []) ∧
      (decAt small (decoder .dHdr 16 0 0 0 false) []).dec.state ≠ .dIdle) ∧
    Inv { encAt (encoder .eStart 0 0 0) [] with env := Env.quiet } ∧ (encAt (encoder .eStart 0 0 0) []).enc.state ≠ .eIdle :=
  ⟨⟨hdr_inv, by decide⟩, start_inv, by decide⟩

/-- EbufWriteStoresOrFlags, EbufWriteReadsBack: the last real offset, with the encoder idle and busy. -/
theorem witness_ebw :
    (0xFFFE : Half) ≠ 0xFFFF ∧ s0.encBusy = false ∧ s0.enc.state = .eIdle ∧
      (encAt (encoder .eStart 0 0 0) []).enc.state ≠ .eIdle := by decide

/-- HostWriteFrame: each instruction it names, answering a next state. -/
theorem witness_HostWriteFrame :
    (1 : Half) ≠ 0 ∧ (∃ t, exec (.csrw 1 5) s0 = .next t) ∧ (∃ t, exec (.csrw 4 5) s0 = .next t) ∧
      (∃ t, exec (.csrw 9 5) s0 = .next t) ∧ (∃ t, exec (.ebw 0xFFFE 5) s0 = .next t) ∧
      (∃ t, exec (.obw 1 5) s0 = .next t) ∧ (∃ t, exec (.rsvw 1 0 0 1) s0 = .next t) ∧ (∃ t, exec .nop s0 = .next t) ∧
      ∃ t, exec (.cmdRsvd 3) s0 = .next t :=
  ⟨by decide, ⟨_, rfl⟩, ⟨_, rfl⟩, ⟨_, rfl⟩, ⟨_, rfl⟩, ⟨_, rfl⟩, ⟨_, rfl⟩, ⟨_, rfl⟩, ⟨_, rfl⟩⟩

/-- HostReadsHaveNoSideEffect: the four reads. -/
theorem witness_HostReadsHaveNoSideEffect :
    ∃ i : Instr, i = .csrr 4 0 ∨ i = .ebr 4 0 ∨ i = .obr 4 0 ∨ i = .rsvr 1 0 4 0 := ⟨_, .inl rfl⟩

/-- ErrorFlagsAreSticky: a bit cleared by a write of 1, and one cleared by RESET. -/
theorem witness_ErrorFlagsAreSticky :
    (∃ t, exec (.csrw 9 0x10) { s0 with errf := 0x1F } = .next t ∧ (0x1F : BitVec 5).getLsbD 4 = true ∧
      t.errf.getLsbD 4 = false) ∧
    ∃ t, exec .reset { s0 with errf := 0x1F } = .next t ∧ t.errf.getLsbD 0 = false :=
  ⟨⟨_, rfl, by decide, by decide⟩, _, rfl, by decide⟩

/-- DecodeStartsOrIsDropped, ExhaustedGivesTheStructuralFailure, ReadFailuresPassThrough: an idle and a busy decoder. -/
theorem witness_decoder_busy_or_idle :
    s0.dec.state = .dIdle ∧ (decAt small (decoder .dHdr 16 0 0 0 false) []).dec.state ≠ .dIdle ∧
      (decAt small (decoder .dChk 16 0 0 4 true) []).dec.state ≠ .dIdle := by decide

/-- ReceivedByteAdvancesTheParser: a state for each clause, D_PAY at PBUF's last byte and D_CHK at the greatest capacity. -/
theorem witness_ReceivedByteAdvancesTheParser :
    (decoder .dHdr 16 0 0 0 false).state = .dHdr ∧ (decoder .dLenhi 16 0 0 1 false).state = .dLenhi ∧
      (decoder .dLenlo 16 0 0 2 false).state = .dLenlo ∧
      ((decoder .dPay 16 65535 65534 65537 true).state = .dPay ∧
        (decoder .dPay 16 65535 65534 65537 true).idx.toNat < 65535) ∧
      (decoder .dTrl 16 0 0 3 true).state = .dTrl ∧
      ((decoder .dChk 16 0 0 4 true).state = .dChk ∧ (decoder .dChk 16 0 0 4 true).cap.toNat ≤ small.obufSize.toNat) := by
  decide

/-- FinalEventChecksCopiesAndFinishes: a byte that is refused, one that is accepted, and PLACEHOLDER. -/
theorem witness_FinalEventChecksCopiesAndFinishes :
    (decAt refusing (decoder .dChk 16 0 0 4 true) []).dec.state = .dChk ∧
      (decAt refusing (decoder .dChk 16 0 0 4 true) []).dec.cap.toNat ≤ refusing.obufSize.toNat ∧
      chkAccept refusing [] 0x55 = false ∧ chkAccept refusing [] 0x54 = true ∧ small.policy = .placeholder := by decide

/-- DecoderFieldsGoInOrder: a symbol that a busy decoder takes, in D_PAY before the last payload byte and at it. -/
theorem witness_DecoderFieldsGoInOrder :
    (Instr.rxByte 7).IsSymbol ∧
      (∃ t, exec (.rxByte 7) (decAt small (decoder .dPay 16 3 1 4 true) [(0, 0x41)]) = .next t ∧ t.dec.state = .dPay) ∧
      ∃ t, exec (.rxByte 7) (decAt small (decoder .dPay 16 2 1 4 true) [(0, 0x41)]) = .next t ∧ t.dec.state = .dTrl :=
  ⟨.inl ⟨7, rfl⟩, ⟨_, rfl, rfl⟩, _, rfl, rfl⟩

/-- WrongFirstByteEndsTheDecode. -/
theorem witness_WrongFirstByteEndsTheDecode : s0.decBusy = false ∧ (0x03 : Byte) ≠ 0x02 := by decide

/-- DecoderEventFrame: DECODE and a symbol, answering next states, the dropped DECODE too. -/
theorem witness_DecoderEventFrame :
    (∃ t, exec .decode s0 = .next t) ∧
      (∃ t, exec .decode s0.startDecode = .next t ∧ s0.startDecode.decBusy = true) ∧
      (Instr.rxByte 2).IsSymbol ∧ ∃ t, exec (.rxByte 2) s0.startDecode = .next t :=
  ⟨⟨_, rfl⟩, ⟨_, rfl, rfl⟩, .inl ⟨2, rfl⟩, _, rfl⟩

/-- ObufChangesOnlyAtTheFinalEvent: a byte of OBUF that changes. -/
theorem witness_ObufChangesOnlyAtTheFinalEvent :
    ∃ t, exec (.rxByte 0x5A) { decAt small (decoder .dChk 16 1 1 5 true) [(0, 0x41)] with obuf := [(0, 0x40)] } = .next t ∧
      t.obufByte 0 = 0x41 ∧
      ({ decAt small (decoder .dChk 16 1 1 5 true) [(0, 0x41)] with obuf := [(0, 0x40)] } : State).obufByte 0 = 0x40 :=
  ⟨_, rfl, rfl, rfl⟩

/-- FrameDecodesToItsPayload: the empty payload, and one that fills the capacity. -/
theorem witness_FrameDecodesToItsPayload :
    ([] : List Byte).length ≤ s0.decCap.toNat ∧ (List.replicate 16 (0x02 : Byte)).length ≤ s0.decCap.toNat ∧
      s0.decBusy = false ∧ s0.decCap.toNat ≤ s0.params.obufSize.toNat := by decide

/-- EncodeStartsOrIsDropped, FailedResponseEndsTheEncode: an idle and a busy encoder. -/
theorem witness_encoder_busy_or_idle :
    s0.enc.state = .eIdle ∧ (encAt (encoder .eStart 0 0 0) []).enc.state ≠ .eIdle ∧
      (encAt (encoder .eChk 0 0 4) []).enc.state ≠ .eIdle := by decide

/-- AcceptedByteAdvancesTheEncoder, OfferedByteIsTheFrameByte: a state for each clause, E_PAY at EBUF's last byte. -/
theorem witness_AcceptedByteAdvancesTheEncoder :
    (encoder .eStart 0 0 0).state = .eStart ∧ (encoder .eLenhi 0 0 1).state = .eLenhi ∧
      (encoder .eLenlo 0 0 2).state = .eLenlo ∧
      ((encoder .ePay 65535 65534 65537).state = .ePay ∧ (encoder .ePay 65535 65534 65537).idx.toNat < 65535) ∧
      (encoder .eEnd 0 0 3).state = .eEnd ∧ (encoder .eChk 0 0 4).state = .eChk := by decide

/-- OfferedByteIsTheFrameByte, StatusRegistersShowTheUnits: a busy encoder that meets the invariant. -/
theorem witness_OfferedByteIsTheFrameByte :
    Inv { encAt (encoder .eChk 0 0 4) [] with env := { Env.quiet with wire := [2, 0, 0, 3] } } ∧
      (encAt (encoder .eChk 0 0 4) []).encBusy = true := ⟨echk_inv, rfl⟩

/-- EncoderEventFrame: ENCODE and a response, answering next states, the dropped ENCODE too. -/
theorem witness_EncoderEventFrame :
    (∃ t, exec .encode s0 = .next t) ∧
      (∃ t, exec .encode s0.startEncode = .next t ∧ s0.startEncode.encBusy = true) ∧
      Instr.txAccept.IsResponse ∧ ∃ t, exec .txAccept s0.startEncode = .next t :=
  ⟨⟨_, rfl⟩, ⟨_, rfl, rfl⟩, .inl rfl, _, rfl⟩

/-- AcceptingSinkReceivesTheFrame, FailedEncodeLeavesACutOffFrame: from no byte accepted to all but one. -/
theorem witness_FailedEncodeLeavesACutOffFrame :
    s0.encBusy = false ∧ 0 < 5 + s0.encLen.toNat ∧ 4 < 5 + s0.encLen.toNat := by decide

/-- WireCarriesTheFrameOfTheIssue: an encode with a dropped EBUF write and a symbol in between. -/
theorem witness_WireCarriesTheFrameOfTheIssue :
    s0.encBusy = false ∧
      (∀ i ∈ [Instr.txAccept, Instr.ebw 0 0x99, Instr.rxByte 2, Instr.txZero], i ≠ .reset ∧ ¬ i.IsEncode) ∧
      ∃ t, execAll [.encode, .txAccept, .ebw 0 0x99, .rxByte 2, .txZero] s0 = .next t ∧ t.enc.done = true ∧ t.env.wire = [2] :=
  ⟨rfl, by unfold Instr.IsEncode; decide, _, rfl, rfl, rfl⟩

/-- EbufIsFixedWhileEncoding: an EBUF write to a busy encoder. -/
theorem witness_EbufIsFixedWhileEncoding :
    (encAt (encoder .eStart 2 0 0) []).encBusy = true ∧ ∃ t, exec (.ebw 1 0x99) (encAt (encoder .eStart 2 0 0) []) = .next t :=
  ⟨rfl, _, rfl⟩

/-- PolicyAcceptsWhatItGenerates. -/
theorem witness_PolicyAcceptsWhatItGenerates : small.policy = .placeholder := rfl

/-- EveryPolicyIsSomeInstances: a pair of functions that meets R110 and refuses something. -/
theorem witness_EveryPolicyIsSomeInstances :
    ∃ (gen : List Byte → Byte) (accept : List Byte → Byte → Bool),
      (∀ payload, payload.length ≤ 65535 → accept payload (gen payload) = true) ∧ accept [] 1 = false :=
  ⟨fun _ => 0, fun _ c => decide (c = 0), fun _ _ => rfl, rfl⟩

/-- ResultsStayUntilTheNextCommand: a symbol and a host write reaching idle units. -/
theorem witness_ResultsStayUntilTheNextCommand :
    s0.decBusy = false ∧ s0.encBusy = false ∧ ¬ (Instr.rxByte 2).IsDecode ∧ ¬ (Instr.csrw 0 0).IsDecode ∧
      ¬ (Instr.csrw 0 2).IsEncode ∧ (∃ t, exec (.rxByte 2) s0 = .next t) ∧ ∃ t, exec (.csrw 0 2) s0 = .next t :=
  ⟨rfl, rfl, by unfold Instr.IsDecode; decide, by unfold Instr.IsDecode; decide, by unfold Instr.IsEncode; decide,
    ⟨_, rfl⟩, _, rfl⟩

/-- OnlyTheEnvironmentEndsAWait: a symbol that moves a busy decoder, a response that moves a busy encoder. -/
theorem witness_OnlyTheEnvironmentEndsAWait :
    (∃ t, exec (.rxByte 2) s0.startDecode = .next t ∧ t.dec ≠ s0.startDecode.dec ∧ s0.startDecode.decBusy = true) ∧
      ∃ t, exec .txAccept s0.startEncode = .next t ∧ t.enc.state ≠ s0.startEncode.enc.state ∧ s0.startEncode.encBusy = true :=
  ⟨⟨_, rfl, by decide, rfl⟩, _, rfl, by decide, rfl⟩

/-- StatusRegistersShowTheUnits: a busy decoder that has no LENGTH yet and meets the invariant. -/
theorem witness_StatusRegistersShowTheUnits :
    Inv (decAt small (decoder .dLenhi 16 0 0 1 false) []) ∧ (decoder .dLenhi 16 0 0 1 false).lenValid = false ∧
      (decoder .dLenhi 16 0 0 1 false).chkValid = false := ⟨lenhi_inv, rfl, rfl⟩

/-- FinishingEventRecordsTheOutcome, decoder: every code is reached from a state that meets the invariant. -/
theorem witness_FinishingEvent_decoder :
    (Inv (decAt small (decoder .dChk 16 0 0 4 true) []) ∧
      ∃ t, exec (.rxByte 0xFF) (decAt small (decoder .dChk 16 0 0 4 true) []) = .next t ∧ t.dec.done = true ∧
        t.dec.code = .ok) ∧
    (Inv (decAt small (decoder .dHdr 16 0 0 0 false) []) ∧
      (∃ t, exec (.rxByte 0x7E) (decAt small (decoder .dHdr 16 0 0 0 false) []) = .next t ∧ t.dec.done = true ∧
        t.dec.code = .malformedHeader) ∧
      (∃ t, exec (.rxFault 0) (decAt small (decoder .dHdr 16 0 0 0 false) []) = .next t ∧ t.dec.done = true ∧
        t.dec.code = .readFailure) ∧
      ∃ t, exec (.rxTimeout 0) (decAt small (decoder .dHdr 16 0 0 0 false) []) = .next t ∧ t.dec.done = true ∧
        t.dec.code = .readTimeout) ∧
    (Inv (decAt small (decoder .dLenhi 16 0 0 1 false) []) ∧
      ∃ t, exec (.rxExhausted 0) (decAt small (decoder .dLenhi 16 0 0 1 false) []) = .next t ∧ t.dec.done = true ∧
        t.dec.code = .malformedLength) ∧
    (Inv (decAt small (decoder .dPay 16 2 1 4 true) [(0, 0x41)]) ∧
      ∃ t, exec (.rxExhausted 0) (decAt small (decoder .dPay 16 2 1 4 true) [(0, 0x41)]) = .next t ∧ t.dec.done = true ∧
        t.dec.code = .malformedPayload) ∧
    (Inv (decAt small (decoder .dTrl 16 0 0 3 true) []) ∧
      ∃ t, exec (.rxByte 4) (decAt small (decoder .dTrl 16 0 0 3 true) []) = .next t ∧ t.dec.done = true ∧
        t.dec.code = .malformedTrailer) ∧
    (∃ t, exec (.rxExhausted 0) (decAt small (decoder .dChk 16 0 0 4 true) []) = .next t ∧ t.dec.done = true ∧
      t.dec.code = .missingChecksum) ∧
    (Inv (decAt small (decoder .dChk 0 1 1 5 true) [(0, 0x41)]) ∧
      ∃ t, exec (.rxByte 9) (decAt small (decoder .dChk 0 1 1 5 true) [(0, 0x41)]) = .next t ∧ t.dec.done = true ∧
        t.dec.code = .bufferTooSmall) ∧
    (Inv (decAt refusing (decoder .dChk 16 0 0 4 true) []) ∧
      ∃ t, exec (.rxByte 0x55) (decAt refusing (decoder .dChk 16 0 0 4 true) []) = .next t ∧ t.dec.done = true ∧
        t.dec.code = .checksumMismatch) :=
  ⟨⟨chk_inv _ (by decide), _, rfl, rfl, rfl⟩,
    ⟨hdr_inv, ⟨_, rfl, rfl, rfl⟩, ⟨_, rfl, rfl, rfl⟩, _, rfl, rfl, rfl⟩,
    ⟨lenhi_inv, _, rfl, rfl, rfl⟩, ⟨pay_inv, _, rfl, rfl, rfl⟩, ⟨trl_inv, _, rfl, rfl, rfl⟩, ⟨_, rfl, rfl, rfl⟩,
    ⟨short_inv, _, rfl, rfl, rfl⟩, chk_inv _ (by decide), _, rfl, rfl, rfl⟩

/-- FinishingEventRecordsTheOutcome, encoder: OK and a failure. -/
theorem witness_FinishingEvent_encoder :
    (Inv { encAt (encoder .eChk 0 0 4) [] with env := { Env.quiet with wire := [2, 0, 0, 3] } } ∧
      ∃ t, exec .txAccept { encAt (encoder .eChk 0 0 4) [] with env := { Env.quiet with wire := [2, 0, 0, 3] } } = .next t ∧
        t.enc.done = true ∧ t.enc.code = .ok) ∧
    Inv { encAt (encoder .eStart 0 0 0) [] with env := Env.quiet } ∧
      ∃ t, exec .txZero { encAt (encoder .eStart 0 0 0) [] with env := Env.quiet } = .next t ∧
        t.enc.done = true ∧ t.enc.code = .incompleteWrite :=
  ⟨⟨echk_inv, _, rfl, rfl, rfl⟩, start_inv, _, rfl, rfl, rfl⟩

/-- UnitsDoNotInterfere: an instruction of each unit. -/
theorem witness_UnitsDoNotInterfere : (Instr.rxFault 0).IsSymbol ∧ Instr.txTimeout.IsResponse :=
  ⟨.inr (.inr (.inl ⟨0, rfl⟩)), .inr (.inr (.inr rfl))⟩

end Sys2Proof.Tests
end

section
/-! Obligations of 00_scope.md: the default reset state, the event that a step runs, and the independence of the two
units. The independence is proved as commutation: replacing the other unit's variables before an event or after it
comes to the same outcome. -/

namespace Sys2Proof.Machine

/-! ## Replacing one unit's variables -/

/-- The state with the encoder's variables replaced. -/
def State.withEnc (s : State) (e : Encoder) : State := { s with enc := e }

/-- The state with the decoder's variables replaced. -/
def State.withDec (s : State) (d : Decoder) : State := { s with dec := d }

/-- Change the next state of an outcome; a stop stays as it is. -/
def mapNext (f : State → State) : Host.Outcome State Fault Refusal → Host.Outcome State Fault Refusal
  | .next t => .next (f t)
  | .fault r => .fault r
  | .refused r => .refused r

section
variable (f : State → State)

@[simp] theorem mapNext_next (t : State) : mapNext f (.next t) = .next (f t) := rfl
@[simp] theorem mapNext_fault (r : Fault) : mapNext f (.fault r) = .fault r := rfl
@[simp] theorem mapNext_refused (r : Refusal) : mapNext f (.refused r) = .refused r := rfl

theorem mapNext_ite (c : Prop) [Decidable c] (a b : Host.Outcome State Fault Refusal) :
    mapNext f (if c then a else b) = if c then mapNext f a else mapNext f b := apply_ite ..

end

section
variable (s : State) (e : Encoder)

@[simp] theorem State.withEnc_dec : (s.withEnc e).dec = s.dec := rfl
@[simp] theorem State.withEnc_decBusy : (s.withEnc e).decBusy = s.decBusy := rfl
@[simp] theorem State.setErr_withEnc (b : ErrBit) : (s.withEnc e).setErr b = (s.setErr b).withEnc e := rfl
@[simp] theorem State.startDecode_withEnc : (s.withEnc e).startDecode = s.startDecode.withEnc e := rfl
@[simp] theorem State.countByte_withEnc : (s.withEnc e).countByte = s.countByte.withEnc e := rfl
@[simp] theorem State.decFinish_withEnc (c : StatusCode) : (s.withEnc e).decFinish c = (s.decFinish c).withEnc e := rfl

end

section
variable (s : State) (d : Decoder)

@[simp] theorem State.withDec_encBusy : (s.withDec d).encBusy = s.encBusy := rfl
@[simp] theorem State.withDec_emit : (s.withDec d).emit = s.emit := rfl
@[simp] theorem State.setErr_withDec (b : ErrBit) : (s.withDec d).setErr b = (s.setErr b).withDec d := rfl
@[simp] theorem State.startEncode_withDec : (s.withDec d).startEncode = s.startEncode.withDec d := rfl
@[simp] theorem State.acceptByte_withDec (b : Byte) : (s.withDec d).acceptByte b = (s.acceptByte b).withDec d := rfl
@[simp] theorem State.encFinish_withDec (c : StatusCode) : (s.withDec d).encFinish c = (s.encFinish c).withDec d := rfl

end

/-! ## The decoder's events commute with a replaced encoder -/

section
variable (s : State) (e : Encoder) (b : Byte)

theorem execDecode_withEnc : execDecode (s.withEnc e) = mapNext (·.withEnc e) (execDecode s) := by
  unfold execDecode
  by_cases hb : s.decBusy <;> simp [hb]

theorem takeStart_withEnc : takeStart b (s.withEnc e) = (takeStart b s).withEnc e := by
  unfold takeStart
  by_cases hb : b = startByte
  · rw [if_pos hb, if_pos hb]; rfl
  · rw [if_neg hb, if_neg hb]; rfl

theorem takeEnd_withEnc : takeEnd b (s.withEnc e) = (takeEnd b s).withEnc e := by
  unfold takeEnd
  by_cases hb : b = endByte
  · rw [if_pos hb, if_pos hb]; rfl
  · rw [if_neg hb, if_neg hb]; rfl

theorem takePayload_withEnc : takePayload b (s.withEnc e) = mapNext (·.withEnc e) (takePayload b s) := by
  unfold takePayload
  rw [mapNext_ite]; rfl

/-- Neither the policy's answer, nor the copy, nor the capacity depends on the encoder (41 R87). -/
theorem decComplete_withEnc : decComplete (s.withEnc e) = mapNext (·.withEnc e) (decComplete s) := by
  unfold decComplete
  rw [mapNext_ite, mapNext_ite, mapNext_ite]; rfl

theorem takeCheck_withEnc : takeCheck b (s.withEnc e) = mapNext (·.withEnc e) (takeCheck b s) :=
  decComplete_withEnc { s with dec := { s.dec with chk := b, chkValid := true } } e

theorem execRxByte_withEnc : execRxByte b (s.withEnc e) = mapNext (·.withEnc e) (execRxByte b s) := by
  unfold execRxByte
  rw [State.withEnc_dec, State.countByte_withEnc]
  cases s.dec.state
  case dIdle => rfl
  case dHdr => simp [takeStart_withEnc]
  case dLenhi => rfl
  case dLenlo => rfl
  case dPay => exact takePayload_withEnc s.countByte e b
  case dTrl => simp [takeEnd_withEnc]
  case dChk => exact takeCheck_withEnc s.countByte e b

theorem execRxExhausted_withEnc : execRxExhausted (s.withEnc e) = mapNext (·.withEnc e) (execRxExhausted s) := by
  unfold execRxExhausted
  rw [State.withEnc_dec]
  cases exhaustedCode s.dec.state <;> rfl

theorem State.endDecode_withEnc (c : StatusCode) : (s.withEnc e).endDecode c = (s.endDecode c).withEnc e := by
  unfold State.endDecode
  by_cases hb : s.decBusy <;> simp [hb]

end

/-- DECODE and the symbols neither read nor write the encoder (00 R4, 60 R118). -/
theorem exec_withEnc {i : Instr} (hi : i = .decode ∨ i.IsSymbol) (s : State) (e : Encoder) :
    exec i (s.withEnc e) = mapNext (·.withEnc e) (exec i s) := by
  rcases hi with rfl | ⟨b, rfl⟩ | ⟨b, rfl⟩ | ⟨b, rfl⟩ | ⟨b, rfl⟩
  · exact execDecode_withEnc s e
  · exact execRxByte_withEnc s e b
  · exact execRxExhausted_withEnc s e
  · exact congrArg Host.Outcome.next (State.endDecode_withEnc s e .readFailure)
  · exact congrArg Host.Outcome.next (State.endDecode_withEnc s e .readTimeout)

/-! ## The encoder's events commute with a replaced decoder -/

section
variable (s : State) (d : Decoder)

theorem execEncode_withDec : execEncode (s.withDec d) = mapNext (·.withDec d) (execEncode s) := by
  unfold execEncode
  by_cases hb : s.encBusy <;> simp [hb]

theorem execTxAccept_withDec : execTxAccept (s.withDec d) = mapNext (·.withDec d) (execTxAccept s) := by
  unfold execTxAccept
  rw [State.withDec_emit]
  cases s.emit
  case none => rfl
  case some b => simp only [mapNext_ite]; rfl

theorem State.endEncode_withDec (c : StatusCode) : (s.withDec d).endEncode c = (s.endEncode c).withDec d := by
  unfold State.endEncode
  by_cases hb : s.encBusy <;> simp [hb]

end

/-- ENCODE and the responses neither read nor write the decoder (00 R4, 60 R118). -/
theorem exec_withDec {i : Instr} (hi : i = .encode ∨ i.IsResponse) (s : State) (d : Decoder) :
    exec i (s.withDec d) = mapNext (·.withDec d) (exec i s) := by
  rcases hi with rfl | rfl | rfl | rfl | rfl
  · exact execEncode_withDec s d
  · exact execTxAccept_withDec s d
  · exact congrArg Host.Outcome.next (State.endEncode_withDec s d .incompleteWrite)
  · exact congrArg Host.Outcome.next (State.endEncode_withDec s d .writeFailure)
  · exact congrArg Host.Outcome.next (State.endEncode_withDec s d .writeTimeout)

/-- Settles O54: each unit's events commute with a replacement of the other unit's variables. -/
theorem unitsDoNotInterfere : Obligations.UnitsDoNotInterfere := by
  unfold Obligations.UnitsDoNotInterfere
  constructor
  · intro i s e hi
    have h := exec_withEnc hi s e
    cases hx : exec i s <;> rw [hx] at h <;> exact h
  · intro i s d hi
    have h := exec_withDec hi s d
    cases hx : exec i s <;> rw [hx] at h <;> exact h

/-! ## The reset state -/

theorem memoryInv_resetOf (p : Params) : MemoryInv (State.resetOf p) where
  ebuf_wf := Memory.wf_nil
  ebuf_within := List.forall_mem_nil _
  pbuf_wf := Memory.wf_nil
  pbuf_within := List.forall_mem_nil _
  obuf_wf := Memory.wf_nil
  obuf_within := List.forall_mem_nil _

/-- DEC_CAP is OBUF_SIZE itself, and every other part speaks of a busy or a finished decoder. -/
theorem decoderInv_resetOf (p : Params) : DecoderInv (State.resetOf p) where
  decCap_legal := Nat.le_refl _
  cap_legal := Nat.zero_le _
  busy_not_done _ := rfl
  code_until_done _ := rfl
  len_until_valid _ := rfl
  chk_until_valid _ := rfl
  position := trivial
  untouched _ _ := rfl
  recorded h := nomatch h
  payload_written _ h := absurd h (Nat.not_lt_zero _)

theorem encoderInv_resetOf (p : Params) : EncoderInv (State.resetOf p) where
  busy_not_done _ := rfl
  code_until_done _ := rfl
  position := trivial
  untouched _ _ := rfl
  recorded h := nomatch h
  check_byte h := nomatch h
  wire_so_far h := nomatch h

/-- Every instance meets the invariant right after reset. -/
theorem inv_resetOf (p : Params) : Inv (State.resetOf p) :=
  ⟨memoryInv_resetOf p, decoderInv_resetOf p, encoderInv_resetOf p⟩

/-- DEC_CAP reads OBUF_SIZE after reset (10 R36). -/
theorem csrRead_decCap_resetOf (p : Params) : (State.resetOf p).csrRead 4 = p.obufSize.setWidth 32 := rfl

/-- Settles O2, by the facts about the reset state of every instance. -/
theorem resetStateIsTheDefaultInstances : Obligations.ResetStateIsTheDefaultInstances :=
  ⟨rfl, rfl, rfl, congrArg BitVec.toNat (csrRead_decCap_resetOf Params.standard), inv_resetOf Params.standard⟩

/-! ## The event that a step runs -/

section
variable {s : State}

theorem step_of_fetch_none {t : State} (h : fetch s = (none, t)) : step s = .next t := by
  simp [step, runEvent, h]

theorem step_of_fetch_some {p : Packet} {t : State} (h : fetch s = (some p, t)) : step s = exec (decode p) t := by
  simp [step, runEvent, h]

theorem fetch_of_schedule_nil (h : s.env.schedule = []) : fetch s = (none, s) := by
  simp [fetch, h]

variable {rest : List Agent}

theorem fetch_of_schedule_host (h : s.env.schedule = .host :: rest) : fetch s = (s.withSchedule rest).takeRequest := by
  simp [fetch, h]

theorem fetch_of_schedule_rxSource (h : s.env.schedule = .rxSource :: rest) :
    fetch s = (s.withSchedule rest).takeSymbol := by
  simp [fetch, h]

theorem fetch_of_schedule_txSink (h : s.env.schedule = .txSink :: rest) :
    fetch s = (s.withSchedule rest).takeResponse := by
  simp [fetch, h]

theorem fetch_of_schedule_resetLine (h : s.env.schedule = .resetLine :: rest) :
    fetch s = (some .resetEvent, s.withSchedule rest) := by
  simp [fetch, h]

theorem State.takeRequest_nil (h : s.env.hostRequests = []) : s.takeRequest = (none, s) := by
  simp [State.takeRequest, h]

theorem State.takeRequest_cons {w : BitVec 64} {ws : List (BitVec 64)} (h : s.env.hostRequests = w :: ws) :
    s.takeRequest = (some (.hbr64 w), { s with env := { s.env with hostRequests := ws } }) := by
  simp [State.takeRequest, h]

/-- The source gives nothing to an idle decoder, and nothing when it has nothing (10 R35, 41 R83). -/
theorem State.takeSymbol_none (h : s.decBusy = false ∨ s.env.rxSymbols = []) : s.takeSymbol = (none, s) := by
  unfold State.takeSymbol
  cases hq : s.env.rxSymbols with
  | nil => rfl
  | cons w ws =>
    have hb : s.decBusy = false := h.resolve_right (by simp [hq])
    simp only [hb, Bool.false_eq_true, if_false]

theorem State.takeSymbol_cons {w : BitVec 10} {ws : List (BitVec 10)} (h : s.env.rxSymbols = w :: ws)
    (hb : s.decBusy = true) :
    s.takeSymbol = (some (.rxsym10 w), { s with env := { s.env with rxSymbols := ws } }) := by
  simp only [State.takeSymbol, h, hb, if_true]

/-- The sink answers no idle encoder, and gives nothing when it has nothing (10 R35, 42 R96). -/
theorem State.takeResponse_none (h : s.encBusy = false ∨ s.env.txResponses = []) : s.takeResponse = (none, s) := by
  unfold State.takeResponse
  cases hq : s.env.txResponses with
  | nil => rfl
  | cons w ws =>
    have hb : s.encBusy = false := h.resolve_right (by simp [hq])
    simp only [hb, Bool.false_eq_true, if_false]

theorem State.takeResponse_cons {w : BitVec 2} {ws : List (BitVec 2)} (h : s.env.txResponses = w :: ws)
    (hb : s.encBusy = true) :
    s.takeResponse = (some (.txrsp2 w), { s with env := { s.env with txResponses := ws } }) := by
  simp only [State.takeResponse, h, hb, if_true]

end

/-- Settles O8: per agent of the schedule, what `fetch` takes, and then the step of it. -/
theorem stepRunsTheNextEvent : Obligations.StepRunsTheNextEvent := by
  unfold Obligations.StepRunsTheNextEvent
  intro s rest
  refine ⟨fun hs => ?_, fun hs => ⟨fun hq => ?_, fun w ws hq => ?_⟩, fun hs => ⟨fun hq => ?_, fun w ws hq hb => ?_⟩,
    fun hs => ⟨fun hq => ?_, fun w ws hq hb => ?_⟩, fun hs => ?_⟩
  · exact step_of_fetch_none (fetch_of_schedule_nil hs)
  · exact step_of_fetch_none ((fetch_of_schedule_host hs).trans (State.takeRequest_nil hq))
  · exact step_of_fetch_some ((fetch_of_schedule_host hs).trans (State.takeRequest_cons hq))
  · exact step_of_fetch_none ((fetch_of_schedule_rxSource hs).trans (State.takeSymbol_none hq))
  · exact step_of_fetch_some ((fetch_of_schedule_rxSource hs).trans (State.takeSymbol_cons hq hb))
  · exact step_of_fetch_none ((fetch_of_schedule_txSink hs).trans (State.takeResponse_none hq))
  · exact step_of_fetch_some ((fetch_of_schedule_txSink hs).trans (State.takeResponse_cons hq hb))
  · exact step_of_fetch_some (fetch_of_schedule_resetLine hs)

end Sys2Proof.Machine
end

section
/-! Obligations of 10_state.md. The invariant is kept part by part: each of its three parts depends on few fields of the
state, so an event that leaves those fields keeps that part, and only a unit's own events are followed field by field. -/

namespace Sys2Proof.Machine

/-! ## What every event leaves: the parameters, the queues, the flags and OBUF -/

section
variable {i : Instr} {s t : State}

/-- A symbol changes PBUF at most by the payload byte that it stores (41 R86). -/
theorem symbol_pbuf (hi : i.IsSymbol) (h : exec i s = .next t) :
    t.pbuf = s.pbuf ∨ ∃ a b, a < pbufSize ∧ t.pbuf = s.pbuf.write a b := by
  rcases hi with ⟨b, rfl⟩ | ⟨b, rfl⟩ | ⟨b, rfl⟩ | ⟨b, rfl⟩
  · rw [show exec (.rxByte b) s = execRxByte b s from rfl] at h
    rcases execRxByte_cases b s with ⟨_, e⟩ | ⟨_, _, e⟩ | ⟨_, _, e⟩ | ⟨_, e⟩ | ⟨_, e⟩ | ⟨_, _, e⟩ | ⟨_, ha, e⟩ |
      ⟨_, _, e⟩ | ⟨_, _, e⟩ | ⟨_, _, e⟩ | ⟨_, _, e⟩ | ⟨_, _, _, e⟩ <;> rw [e] at h <;> cases h
    pick_goal 6
    · exact .inr ⟨_, _, ha, rfl⟩
    all_goals exact .inl rfl
  · rw [show exec (.rxExhausted b) s = execRxExhausted s from rfl, execRxExhausted_eq] at h
    cases h; left; split <;> rfl
  · cases h; left; simp only [State.endDecode]; split_ifs <;> rfl
  · cases h; left; simp only [State.endDecode]; split_ifs <;> rfl

theorem exec_params (h : exec i s = .next t) : t.params = s.params := by
  rcases exec_kinds h with hi | hi | rfl | hk
  · rw [symbol_keeps hi h]
  · rw [response_keeps hi h]
  · cases h; rfl
  · exact hk.params

/-- No meaning touches the queues of the source and the sink: only `fetch` takes from them. -/
theorem exec_queues (h : exec i s = .next t) :
    t.env.rxSymbols = s.env.rxSymbols ∧ t.env.txResponses = s.env.txResponses := by
  rcases exec_kinds h with hi | hi | rfl | hk
  · rw [symbol_keeps hi h]; exact ⟨rfl, rfl⟩
  · rw [response_keeps hi h]; exact ⟨rfl, rfl⟩
  · cases h; exact ⟨rfl, rfl⟩
  · obtain ⟨r, hr⟩ := hk.env
    rw [hr]; exact ⟨rfl, rfl⟩

theorem obufByte_congr (ho : t.obuf = s.obuf) (hr : t.resets = s.resets) (a : Nat) : t.obufByte a = s.obufByte a := by
  rw [State.obufByte, State.obufByte, ho, hr]

end

/-- Settles O7: a step that runs no event moves the schedule only, and no event writes the parameters. -/
theorem noStepChangesTheParameters : Obligations.NoStepChangesTheParameters := by
  unfold Obligations.NoStepChangesTheParameters
  intro s t h
  rcases step_cases s with ⟨l, e⟩ | ⟨p, env, e, _⟩ <;> rw [e] at h
  · cases h; rfl
  · exact (exec_params h).trans rfl

/-- Settles O10: a unit's events leave it when idle, and `fetch` takes nothing for it then. -/
theorem idleUnitsTakeNothing : Obligations.IdleUnitsTakeNothing := by
  unfold Obligations.IdleUnitsTakeNothing
  refine ⟨fun i s => symbol_idle, fun i s => response_idle, fun s t hb h => ?_, fun s t hb h => ?_⟩
  · rcases step_cases s with ⟨l, e⟩ | ⟨p, env, e, _, _, hrx, _⟩ <;> rw [e] at h
    · cases h; rfl
    · exact (exec_queues h).1.trans (hrx hb)
  · rcases step_cases s with ⟨l, e⟩ | ⟨p, env, e, _, _, _, htx⟩ <;> rw [e] at h
    · cases h; rfl
    · exact (exec_queues h).2.trans (htx hb)

/-- Settles O28: the units' events leave ERRF, and a host event clears a bit only by the write that names it. -/
theorem errorFlagsAreSticky : Obligations.ErrorFlagsAreSticky := by
  unfold Obligations.ErrorFlagsAreSticky
  intro i s t k h hset hclear
  have kept : t.errf ≠ s.errf := fun e => by simp [e, hset] at hclear
  rcases exec_kinds h with hi | hi | rfl | hk
  · exact absurd (by rw [symbol_keeps hi h]) kept
  · exact absurd (by rw [response_keeps hi h]) kept
  · exact .inl rfl
  · exact .inr (hk.errf k hset hclear)

/-- Settles O37: of the events but RESET only a symbol at CHECK writes OBUF, and it writes the bounded copy. -/
theorem obufChangesOnlyAtTheFinalEvent : Obligations.ObufChangesOnlyAtTheFinalEvent := by
  unfold Obligations.ObufChangesOnlyAtTheFinalEvent
  intro i s t a h hne
  rcases exec_kinds h with hi | hi | rfl | hk
  · have hr : t.resets = s.resets := by rw [symbol_keeps hi h]
    rcases symbol_obuf hi h with ho | ⟨hb, hs, _, ho⟩
    · exact absurd (obufByte_congr ho hr a) hne
    · refine .inr ⟨hb, hs, ?_⟩
      by_contra ha
      have copied := obufByte_congr (s := s.copyToObuf s.copyLength) ho hr a
      rw [State.copyToObuf_obufByte, State.copyLength, if_neg ha] at copied
      exact hne copied
  · exact absurd (by rw [response_keeps hi h]; rfl) hne
  · exact .inl rfl
  · exact absurd (obufByte_congr hk.obuf hk.resets a) hne

/-! ## The parts of the invariant depend on few fields -/

section
variable {s t : State}

theorem MemoryInv.congr (h : MemoryInv s) (hp : t.params = s.params) (he : t.ebuf = s.ebuf) (hb : t.pbuf = s.pbuf)
    (ho : t.obuf = s.obuf) : MemoryInv t where
  ebuf_wf := he ▸ h.ebuf_wf
  ebuf_within := he ▸ h.ebuf_within
  pbuf_wf := hb ▸ h.pbuf_wf
  pbuf_within := hb ▸ h.pbuf_within
  obuf_wf := ho ▸ h.obuf_wf
  obuf_within := by rw [ho, hp]; exact h.obuf_within

/-- The decoder's part: the decoder's variables, PBUF and the parameters stay, and DEC_CAP is legal. -/
theorem DecoderInv.congr (h : DecoderInv s) (hp : t.params = s.params) (hd : t.dec = s.dec) (hb : t.pbuf = s.pbuf)
    (hc : t.decCap.toNat ≤ s.params.obufSize.toNat) : DecoderInv t where
  decCap_legal := hp ▸ hc
  cap_legal := by rw [hp, hd]; exact h.cap_legal
  busy_not_done := by rw [State.decBusy, hd]; exact h.busy_not_done
  code_until_done := hd ▸ h.code_until_done
  len_until_valid := hd ▸ h.len_until_valid
  chk_until_valid := hd ▸ h.chk_until_valid
  position := hd ▸ h.position
  untouched := by rw [State.decBusy, hd]; exact h.untouched
  recorded := by rw [hp, hd]; exact h.recorded
  payload_written := by rw [hb, hd]; exact h.payload_written

/-- The encoder's part: the encoder's variables and the parameters stay, and while it is busy EBUF and the wire. -/
theorem EncoderInv.congr (h : EncoderInv s) (hp : t.params = s.params) (he : t.enc = s.enc)
    (hb : s.encBusy = true → ∀ a, t.ebufByte a = s.ebufByte a) (hw : s.encBusy = true → t.env.wire = s.env.wire) :
    EncoderInv t := by
  have busy : t.encBusy = s.encBusy := by rw [State.encBusy, he]; rfl
  have bytes (hs : s.encBusy = true) (n : Nat) : t.ebufBytes n = s.ebufBytes n := firstBytes_congr fun a _ => hb hs a
  exact {
    busy_not_done := by rw [busy, he]; exact h.busy_not_done
    code_until_done := he ▸ h.code_until_done
    position := he ▸ h.position
    untouched := by rw [busy, he]; exact h.untouched
    recorded := he ▸ h.recorded
    check_byte := fun hs => by
      rw [busy] at hs
      rw [he, hp, bytes hs]; exact h.check_byte hs
    wire_so_far := fun hs => by
      rw [busy] at hs
      rw [State.encFrame, he, hp, bytes hs, hw hs]; exact h.wire_so_far hs }

theorem ebufByte_congr (he : t.ebuf = s.ebuf) (hr : t.resets = s.resets) (a : Nat) : t.ebufByte a = s.ebufByte a := by
  rw [State.ebufByte, State.ebufByte, he, hr]

/-- The queues and the schedule are no part of the invariant. -/
theorem Inv.withEnv (h : Inv s) {e : Env} (hw : e.wire = s.env.wire) : Inv { s with env := e } where
  memory := h.memory.congr rfl rfl rfl rfl
  decoder := h.decoder.congr rfl rfl rfl h.decoder.decCap_legal
  encoder := h.encoder.congr rfl rfl (fun _ _ => rfl) fun _ => hw

end

/-! ## Counters do not wrap -/

theorem count_succ_toNat {c : Count} (h : c.toNat < 65540) : (c + 1).toNat = c.toNat + 1 :=
  BitVec.toNat_add_of_lt (by simp only [BitVec.ofNat_eq_ofNat, BitVec.toNat_ofNat]; omega)

theorem idx_succ_toNat {x n : Half} (h : x.toNat < n.toNat) : (x + 1).toNat = x.toNat + 1 :=
  BitVec.toNat_add_of_lt (by simp only [BitVec.ofNat_eq_ofNat, BitVec.toNat_ofNat]; omega)

/-! ## The decoder's variables -/

section
variable {d : Decoder}

/-- Before the CHECK byte a busy decoder has taken at most 4 + LENGTH bytes, and holds no CHECK byte. -/
theorem Decoder.Position.busy_bounds (h : d.Position) (hs : d.state ≠ .dIdle) :
    d.count.toNat ≤ 4 + d.len.toNat ∧ d.chkValid = false := by
  rw [Decoder.Position] at h
  cases hd : d.state <;> rw [hd] at h
  case dIdle => exact absurd hd hs
  case dHdr | dLenhi | dLenlo => obtain ⟨hc, -, hk⟩ := h; exact ⟨by omega, hk⟩
  case dPay => obtain ⟨hc, hi, -, hk⟩ := h; exact ⟨by omega, hk⟩
  case dTrl | dChk => obtain ⟨hc, -, -, hk⟩ := h; exact ⟨by omega, hk⟩

/-- One more byte is counted without a wrap (10 R14). -/
theorem Decoder.Position.count_succ (h : d.Position) (hs : d.state ≠ .dIdle) :
    (d.count + 1).toNat = d.count.toNat + 1 := by
  have hb := (h.busy_bounds hs).1
  have hl := d.len.isLt
  exact count_succ_toNat (by omega)

/-- A finished decode has counted at most the whole frame. -/
theorem Decoder.Recorded.count_le {p : Params} (h : d.Recorded p) : d.count.toNat ≤ 5 + d.len.toNat := by
  rw [Decoder.Recorded] at h
  cases hd : d.code <;> rw [hd] at h
  case incompleteWrite | writeFailure | writeTimeout => exact h.elim
  all_goals obtain ⟨hc, h'⟩ := h
  all_goals omega

/-- After LEN_LO, and after each payload byte, a decoder is at the next payload byte, or at the trailer when it has the
whole payload (41 R84, R86). -/
theorem Decoder.busy_position_of_payload {c : Prop} [Decidable c] (hn : d.count.toNat = 3 + d.idx.toNat)
    (hi : d.idx.toNat ≤ d.len.toNat) (hl : d.lenValid = true) (hk : d.chkValid = false)
    (hs : d.state = if c then .dTrl else .dPay) (hc : c ↔ d.idx = d.len) : d.state ≠ .dIdle ∧ d.Position := by
  rw [Decoder.Position]
  split_ifs at hs with h <;> rw [hs]
  · have whole := hc.1 h
    exact ⟨nofun, whole ▸ hn, whole, hl, hk⟩
  · have left : d.idx.toNat ≠ d.len.toNat := fun e => h (hc.2 (BitVec.eq_of_toNat_eq e))
    exact ⟨nofun, hn, hi.lt_of_ne left, hl, hk⟩

/-- EXHAUSTED records what its step has taken (60 R114). -/
theorem Decoder.Position.recorded_exhausted {c : StatusCode} (h : d.Position) (hc : exhaustedCode d.state = some c)
    (p : Params) : Decoder.Recorded p { d with state := .dIdle, done := true, code := c } := by
  rw [Decoder.Position] at h
  cases hd : d.state <;> rw [hd] at h hc <;> cases hc
  case dHdr => obtain ⟨hn, hl, hk⟩ := h; exact ⟨hn.trans_le (Nat.zero_le 1), hl, hk⟩
  case dLenhi => obtain ⟨hn, hl, hk⟩ := h; exact ⟨hn.ge, hn.trans_le (Nat.le_succ 1), hl, hk⟩
  case dLenlo => obtain ⟨hn, hl, hk⟩ := h; exact ⟨hn ▸ Nat.le_succ 1, hn.le, hl, hk⟩
  case dPay => exact h
  case dTrl =>
    obtain ⟨hn, -, hl, hk⟩ := h
    have hn' : d.count.toNat ≤ 4 + d.len.toNat := by omega
    exact ⟨hn.ge, hn', hl, hk⟩
  case dChk => obtain ⟨hn, -, hl, hk⟩ := h; exact ⟨hn, hl, hk⟩

end

/-! ## The decoder's events keep the decoder's part -/

section
variable {s t : State}

/-- The decoder's part of the invariant for a decoder that is busy. -/
theorem DecoderInv.of_busy (hc : t.decCap.toNat ≤ t.params.obufSize.toNat) (hcap : t.dec.cap.toNat ≤ t.params.obufSize.toNat)
    (hd : t.dec.done = false) (hcode : t.dec.code = .ok) (hl : t.dec.lenValid = false → t.dec.len = 0)
    (hk : t.dec.chkValid = false → t.dec.chk = 0) (hp : t.dec.state ≠ .dIdle ∧ t.dec.Position)
    (hw : ∀ i, i < t.dec.idx.toNat → (t.pbuf.read i).isSome = true) : DecoderInv t where
  decCap_legal := hc
  cap_legal := hcap
  busy_not_done _ := hd
  code_until_done _ := hcode
  len_until_valid := hl
  chk_until_valid := hk
  position := hp.2
  untouched hb := absurd ((State.decBusy_eq_false t).1 hb) hp.1
  recorded h := by simp [hd] at h
  payload_written := hw

/-- The decoder's part of the invariant for a decoder that has finished. -/
theorem DecoderInv.of_finished (hc : t.decCap.toNat ≤ t.params.obufSize.toNat)
    (hcap : t.dec.cap.toNat ≤ t.params.obufSize.toNat) (hs : t.dec.state = .dIdle) (hd : t.dec.done = true)
    (hl : t.dec.lenValid = false → t.dec.len = 0) (hk : t.dec.chkValid = false → t.dec.chk = 0)
    (hr : t.dec.Recorded t.params) (hw : ∀ i, i < t.dec.idx.toNat → (t.pbuf.read i).isSome = true) : DecoderInv t where
  decCap_legal := hc
  cap_legal := hcap
  busy_not_done hb := absurd hs ((State.decBusy_eq_true t).1 hb)
  code_until_done h := by simp [hd] at h
  len_until_valid := hl
  chk_until_valid := hk
  position := by rw [Decoder.Position, hs]; trivial
  untouched _ h := by simp [hd] at h
  recorded _ := hr
  payload_written := hw

theorem DecoderInv.startDecode (h : DecoderInv s) : DecoderInv s.startDecode :=
  .of_busy h.decCap_legal h.decCap_legal rfl rfl (fun _ => rfl) (fun _ => rfl) ⟨nofun, rfl, rfl, rfl⟩
    fun _ hi => absurd hi (Nat.not_lt_zero _)

/-- Ending a decode keeps the decoder's part where the code's record holds. -/
theorem DecoderInv.decFinish (h : DecoderInv s) {c : StatusCode} (hr : (s.decFinish c).dec.Recorded s.params) :
    DecoderInv (s.decFinish c) :=
  .of_finished h.decCap_legal h.cap_legal rfl rfl h.len_until_valid h.chk_until_valid hr h.payload_written

/-- A fault or a timeout of the source ends a busy decode with a record that asks no more than any step has (41 R89, R90). -/
theorem DecoderInv.endDecode (h : DecoderInv s) {c : StatusCode} (hc : c = .readFailure ∨ c = .readTimeout) :
    DecoderInv (s.endDecode c) := by
  unfold State.endDecode
  split_ifs with hb
  · have bounds := h.position.busy_bounds ((State.decBusy_eq_true s).1 hb)
    rcases hc with rfl | rfl <;> exact h.decFinish bounds
  · exact h

theorem DecoderInv.execRxExhausted (h : DecoderInv s) (he : execRxExhausted s = .next t) : DecoderInv t := by
  rw [execRxExhausted_eq] at he
  cases hc : exhaustedCode s.dec.state <;> rw [hc] at he <;> cases he
  case none => exact h
  case some c => exact h.decFinish (h.position.recorded_exhausted hc _)

/-- A data byte takes the decoder to the next position, or to a record of its outcome (41 R86, R87). -/
theorem DecoderInv.execRxByte (h : DecoderInv s) {b : Byte} (he : execRxByte b s = .next t) : DecoderInv t := by
  by_cases hb : s.dec.state = .dIdle
  · have e : Machine.execRxByte b s = .next s := symbol_idle (.inl ⟨b, rfl⟩) ((State.decBusy_eq_false s).2 hb)
    rw [e] at he; cases he; exact h
  have succ := h.position.count_succ hb
  have hdone := h.busy_not_done ((State.decBusy_eq_true s).2 hb)
  have hcode := h.code_until_done hdone
  have pos := h.position
  rw [Decoder.Position] at pos
  rcases execRxByte_cases b s with ⟨hs, e⟩ | ⟨hs, _, e⟩ | ⟨hs, _, e⟩ | ⟨hs, e⟩ | ⟨hs, e⟩ | ⟨_, _, e⟩ | ⟨hs, _, e⟩ |
    ⟨hs, _, e⟩ | ⟨hs, _, e⟩ | ⟨hs, hrej, e⟩ | ⟨_, _, e⟩ | ⟨hs, _, _, e⟩ <;> rw [e] at he <;> cases he <;> rw [hs] at pos
  -- an idle decoder
  · exact h
  -- D_HDR, START
  · obtain ⟨hn, hl, hk⟩ := pos
    rw [hn] at succ
    exact .of_busy h.decCap_legal h.cap_legal hdone hcode h.len_until_valid h.chk_until_valid
      ⟨nofun, succ, hl, hk⟩ h.payload_written
  -- D_HDR, another byte
  · obtain ⟨hn, hl, hk⟩ := pos
    rw [hn] at succ
    exact .of_finished h.decCap_legal h.cap_legal rfl rfl h.len_until_valid h.chk_until_valid
      ⟨succ.le, hl, hk⟩ h.payload_written
  -- D_LENHI
  · obtain ⟨hn, hl, hk⟩ := pos
    rw [hn] at succ
    exact .of_busy h.decCap_legal h.cap_legal hdone hcode h.len_until_valid h.chk_until_valid
      ⟨nofun, succ, hl, hk⟩ h.payload_written
  -- D_LENLO
  · obtain ⟨hn, -, hk⟩ := pos
    rw [hn] at succ
    exact .of_busy h.decCap_legal h.cap_legal hdone hcode nofun h.chk_until_valid
      (Decoder.busy_position_of_payload succ (Nat.zero_le _) rfl hk rfl eq_comm) fun _ hi => absurd hi (Nat.not_lt_zero _)
  -- D_PAY
  · obtain ⟨hn, hi, hl, hk⟩ := pos
    have isucc := idx_succ_toNat hi
    have hn' : (s.dec.count + 1).toNat = 3 + (s.dec.idx + 1).toNat := by omega
    refine .of_busy h.decCap_legal h.cap_legal hdone hcode h.len_until_valid h.chk_until_valid
      (Decoder.busy_position_of_payload hn' (isucc.trans_le hi) hl hk rfl .rfl) fun i hlt => ?_
    rw [Memory.read_write]
    split_ifs with heq
    · rfl
    · have hlt' : i < (s.dec.idx + 1).toNat := hlt
      exact h.payload_written i (by omega)
  -- D_TRL, END
  · obtain ⟨hn, hi, hl, hk⟩ := pos
    have hn' : (s.dec.count + 1).toNat = 4 + s.dec.len.toNat := by omega
    exact .of_busy h.decCap_legal h.cap_legal hdone hcode h.len_until_valid h.chk_until_valid
      ⟨nofun, hn', hi, hl, hk⟩ h.payload_written
  -- D_TRL, another byte
  · obtain ⟨hn, -, hl, hk⟩ := pos
    have hn' : (s.dec.count + 1).toNat = 4 + s.dec.len.toNat := by omega
    exact .of_finished h.decCap_legal h.cap_legal rfl rfl h.len_until_valid h.chk_until_valid
      ⟨hn' ▸ Nat.add_le_add_right (by decide) _, hn'.le, hl, hk⟩ h.payload_written
  -- D_CHK, the policy refuses
  · obtain ⟨hn, -, hl, -⟩ := pos
    have hn' : (s.dec.count + 1).toNat = 5 + s.dec.len.toNat := by omega
    have hp : s.params.policy ≠ .placeholder := fun hp => by simp [chkAccept_placeholder hp] at hrej
    exact .of_finished h.decCap_legal h.cap_legal rfl rfl h.len_until_valid nofun ⟨hn', hl, rfl, hp⟩ h.payload_written
  -- D_CHK, the policy accepts
  · obtain ⟨hn, -, hl, -⟩ := pos
    have hn' : (s.dec.count + 1).toNat = 5 + s.dec.len.toNat := by omega
    refine .of_finished h.decCap_legal h.cap_legal rfl rfl h.len_until_valid nofun ?_ h.payload_written
    by_cases hc : s.dec.cap.toNat < s.dec.len.toNat
    · rw [if_pos hc]; exact ⟨hn', hc, hl, rfl⟩
    · rw [if_neg hc]; exact ⟨hn', Nat.le_of_not_lt hc, hl, rfl⟩

/-- Every symbol keeps the decoder's part. -/
theorem DecoderInv.symbol {i : Instr} (h : DecoderInv s) (hi : i.IsSymbol) (he : exec i s = .next t) : DecoderInv t := by
  rcases hi with ⟨b, rfl⟩ | ⟨b, rfl⟩ | ⟨b, rfl⟩ | ⟨b, rfl⟩
  · exact h.execRxByte he
  · exact h.execRxExhausted he
  · cases he; exact h.endDecode (.inl rfl)
  · cases he; exact h.endDecode (.inr rfl)

end

/-! ## The encoder's variables -/

section
variable {e : Encoder}

/-- Before the last acceptance a busy encoder has counted less than the whole frame. -/
theorem Encoder.Position.count_lt (h : e.Position) (hs : e.state ≠ .eIdle) : e.count.toNat < 5 + e.len.toNat := by
  rw [Encoder.Position] at h
  cases he : e.state <;> rw [he] at h
  case eIdle => exact absurd he hs
  all_goals have hn := h.1
  case ePay => have hi := h.2; omega
  all_goals omega

/-- One more byte is counted without a wrap (10 R14). -/
theorem Encoder.Position.count_succ (h : e.Position) (hs : e.state ≠ .eIdle) :
    (e.count + 1).toNat = e.count.toNat + 1 := by
  have hlt := h.count_lt hs
  have hl := e.len.isLt
  exact count_succ_toNat (by omega)

/-- A finished encode has counted at most the whole frame. -/
theorem Encoder.Recorded.count_le (h : e.Recorded) : e.count.toNat ≤ 5 + e.len.toNat := by
  rw [Encoder.Recorded] at h
  cases he : e.code <;> rw [he] at h
  case ok => exact h.le
  case incompleteWrite | writeFailure | writeTimeout => exact h.le
  all_goals exact h.elim

@[simp] theorem Encoder.advance_len (e : Encoder) : e.advance.len = e.len := by
  rw [Encoder.advance]; cases e.state <;> rfl
@[simp] theorem Encoder.advance_chk (e : Encoder) : e.advance.chk = e.chk := by
  rw [Encoder.advance]; cases e.state <;> rfl
@[simp] theorem Encoder.advance_count (e : Encoder) : e.advance.count = e.count := by
  rw [Encoder.advance]; cases e.state <;> rfl

/-- Only the acceptance of the CHECK byte finishes an encode (42 R99). -/
theorem Encoder.advance_busy (hs : e.state ≠ .eIdle) (hc : e.state ≠ .eChk) :
    e.advance.state ≠ .eIdle ∧ e.advance.done = e.done ∧ e.advance.code = e.code := by
  rw [Encoder.advance]
  cases he : e.state
  case eIdle => exact absurd he hs
  case eChk => exact absurd he hc
  case eLenlo | ePay => refine ⟨?_, rfl, rfl⟩; dsimp only; split_ifs <;> nofun
  all_goals exact ⟨nofun, rfl, rfl⟩

theorem Encoder.advance_eChk (hc : e.state = .eChk) :
    e.advance = { e with state := .eIdle, done := true, code := .ok } := by
  rw [Encoder.advance, hc]

/-- After LEN_LO, and after each payload byte, an encoder offers the next payload byte, or END when it has sent the whole
payload (42 R97, R99). -/
theorem Encoder.position_of_payload {c : Prop} [Decidable c] (hn : e.count.toNat = 3 + e.idx.toNat)
    (hi : e.idx.toNat ≤ e.len.toNat) (hs : e.state = if c then .eEnd else .ePay) (hc : c ↔ e.idx = e.len) :
    e.Position := by
  rw [Encoder.Position]
  split_ifs at hs with h <;> rw [hs]
  · have whole := hc.1 h
    exact ⟨whole ▸ hn, whole⟩
  · have left : e.idx.toNat ≠ e.len.toNat := fun he => h (hc.2 (BitVec.eq_of_toNat_eq he))
    exact ⟨hn, hi.lt_of_ne left⟩

/-- An acceptance counts the byte and moves to the next position (42 R99). -/
theorem Encoder.Position.accept (h : e.Position) (hs : e.state ≠ .eIdle) :
    { e with count := e.count + 1 }.advance.Position := by
  have succ := h.count_succ hs
  obtain ⟨state, len, idx, chk, count, done, code⟩ := e
  cases state
  case eIdle => exact absurd rfl hs
  case eStart | eLenhi =>
    obtain ⟨hn, hi⟩ := h
    dsimp only at hn succ
    rw [hn] at succ
    exact ⟨succ, hi⟩
  case eLenlo =>
    obtain ⟨hn, rfl⟩ := h
    dsimp only at hn succ
    rw [hn] at succ
    exact Encoder.position_of_payload succ (Nat.zero_le _) rfl eq_comm
  case ePay =>
    obtain ⟨hn, hi⟩ := h
    dsimp only at hn hi succ
    have isucc := idx_succ_toNat hi
    have hn' : (count + 1).toNat = 3 + (idx + 1).toNat := by omega
    exact Encoder.position_of_payload hn' (isucc.trans_le hi) rfl .rfl
  case eEnd =>
    obtain ⟨hn, hi⟩ := h
    dsimp only at hn succ
    have hn' : (count + 1).toNat = 4 + len.toNat := by omega
    exact ⟨hn', hi⟩
  case eChk => trivial

end

/-! ## The frame and the offered byte -/

section
variable (p : Params) (payload : List Byte)

theorem frame_getElem?_payload {i : Nat} (h : i < payload.length) : (frame p payload)[3 + i]? = some payload[i] := by
  simp [frame, Nat.add_comm 3 i, List.getElem?_append_left h]

theorem frame_getElem?_end : (frame p payload)[3 + payload.length]? = some endByte := by
  simp [frame, Nat.add_comm 3, endByte]

theorem frame_getElem?_check : (frame p payload)[4 + payload.length]? = some (chkGen p payload) := by
  simp [frame, Nat.add_comm 4]

end

theorem State.ebufBytes_getElem (s : State) {i n : Nat} (h : i < (s.ebufBytes n).length) :
    (s.ebufBytes n)[i] = s.ebufByte i := by
  simp [State.ebufBytes, firstBytes]

/-- A busy encoder offers the frame's byte at `e_count` (42 R97). -/
theorem EncoderInv.emit_eq {s : State} (h : EncoderInv s) (hb : s.encBusy = true) :
    s.emit = s.encFrame[s.enc.count.toNat]? := by
  have pos := h.position
  have check := h.check_byte hb
  have hlen := s.ebufBytes_length s.enc.len.toNat
  rw [State.encBusy_eq_true] at hb
  rw [Encoder.Position] at pos
  rw [State.emit, State.encFrame]
  cases hs : s.enc.state <;> rw [hs] at pos
  case eIdle => exact absurd hs hb
  case eStart => rw [pos.1]; rfl
  case eLenhi => rw [pos.1]; simp [frame, lenHi_eq]
  case eLenlo => rw [pos.1]; simp [frame, lenLo_eq]
  case ePay =>
    obtain ⟨hn, hi⟩ := pos
    rw [hn, frame_getElem?_payload _ _ (hi.trans_eq hlen.symm), State.ebufBytes_getElem]
  case eEnd => rw [pos.1, ← frame_getElem?_end, hlen]
  case eChk => rw [pos.1, check, ← frame_getElem?_check, hlen]

/-! ## The encoder's events keep the encoder's part -/

section
variable {s t : State}

/-- The encoder's part of the invariant for an encoder that is busy. -/
theorem EncoderInv.of_busy (hd : t.enc.done = false) (hcode : t.enc.code = .ok) (hs : t.enc.state ≠ .eIdle)
    (hp : t.enc.Position) (hk : t.enc.chk = chkGen t.params (t.ebufBytes t.enc.len.toNat))
    (hw : ∃ before, t.env.wire = before ++ t.encFrame.take t.enc.count.toNat) : EncoderInv t where
  busy_not_done _ := hd
  code_until_done _ := hcode
  position := hp
  untouched hb := absurd ((State.encBusy_eq_false t).1 hb) hs
  recorded h := by simp [hd] at h
  check_byte _ := hk
  wire_so_far _ := hw

/-- The encoder's part of the invariant for an encoder that has finished. -/
theorem EncoderInv.of_finished (hs : t.enc.state = .eIdle) (hd : t.enc.done = true) (hr : t.enc.Recorded) :
    EncoderInv t where
  busy_not_done hb := absurd hs ((State.encBusy_eq_true t).1 hb)
  code_until_done h := by simp [hd] at h
  position := by rw [Encoder.Position, hs]; trivial
  untouched _ h := by simp [hd] at h
  recorded _ := hr
  check_byte hb := absurd hs ((State.encBusy_eq_true t).1 hb)
  wire_so_far hb := absurd hs ((State.encBusy_eq_true t).1 hb)

theorem EncoderInv.startEncode (s : State) : EncoderInv s.startEncode :=
  .of_busy rfl rfl nofun ⟨rfl, rfl⟩ rfl ⟨s.env.wire, (List.append_nil _).symm⟩

/-- A failed response ends a busy encode before the last byte (42 R100 to R102). -/
theorem EncoderInv.endEncode (h : EncoderInv s) {c : StatusCode}
    (hc : c = .incompleteWrite ∨ c = .writeFailure ∨ c = .writeTimeout) : EncoderInv (s.endEncode c) := by
  unfold State.endEncode
  split_ifs with hb
  · have less := h.position.count_lt ((State.encBusy_eq_true s).1 hb)
    rcases hc with rfl | rfl | rfl <;> exact .of_finished rfl rfl less
  · exact h

/-- The accepted byte is the frame's next one, so the wire grows by it (42 R97, R99). -/
theorem EncoderInv.acceptByte (h : EncoderInv s) (hb : s.encBusy = true) {b : Byte} (he : s.emit = some b) :
    EncoderInv (s.acceptByte b) := by
  have hs := (State.encBusy_eq_true s).1 hb
  have hpos := h.position.accept hs
  have succ := h.position.count_succ hs
  by_cases hc : s.enc.state = .eChk
  · have adv := Encoder.advance_eChk (e := { s.enc with count := s.enc.count + 1 }) hc
    have hn : s.enc.count.toNat = 4 + s.enc.len.toNat := by
      have pos := h.position
      rw [Encoder.Position, hc] at pos
      exact pos.1
    have hn' : (s.enc.count + 1).toNat = 5 + s.enc.len.toNat := by omega
    refine .of_finished ?_ ?_ ?_ <;> rw [State.acceptByte_enc, adv]
    exact hn'
  · obtain ⟨hs', hd, hcode⟩ := Encoder.advance_busy (e := { s.enc with count := s.enc.count + 1 }) hs hc
    have done := h.busy_not_done hb
    refine .of_busy (hd.trans done) (hcode.trans (h.code_until_done done)) hs' hpos ?_ ?_
    · simpa using h.check_byte hb
    · obtain ⟨before, hw⟩ := h.wire_so_far hb
      refine ⟨before, ?_⟩
      have next : s.encFrame[s.enc.count.toNat]? = some b := (h.emit_eq hb).symm.trans he
      have hf : (s.acceptByte b).encFrame = s.encFrame := by simp [State.encFrame]
      have hcount : (s.acceptByte b).enc.count = s.enc.count + 1 := Encoder.advance_count _
      rw [hf, hcount, succ, List.take_add_one, next, ← List.append_assoc, ← hw]
      rfl

/-- Every response keeps the encoder's part. -/
theorem EncoderInv.response {i : Instr} (h : EncoderInv s) (hi : i.IsResponse) (he : exec i s = .next t) :
    EncoderInv t := by
  rcases hi with rfl | rfl | rfl | rfl
  · rw [show exec .txAccept s = execTxAccept s from rfl] at he
    rcases execTxAccept_cases s with ⟨_, e⟩ | ⟨_, _, _, _, _, e⟩ | ⟨b, hemit, hb, _, e⟩ <;> rw [e] at he <;> cases he
    · exact h
    · exact h.acceptByte hb hemit
  · cases he; exact h.endEncode (.inl rfl)
  · cases he; exact h.endEncode (.inr (.inl rfl))
  · cases he; exact h.endEncode (.inr (.inr rfl))

end

/-! ## Every event keeps the invariant -/

section
variable {i : Instr} {s t : State}

/-- A symbol writes PBUF inside its size, and OBUF below OBUF_SIZE. -/
theorem MemoryInv.symbol (h : MemoryInv s) (hi : i.IsSymbol) (he : exec i s = .next t) : MemoryInv t := by
  have hb : t.ebuf = s.ebuf := by rw [symbol_keeps hi he]
  have hp : t.pbuf.wf ∧ t.pbuf.within pbufSize := by
    rcases symbol_pbuf hi he with e | ⟨a, b, ha, e⟩ <;> rw [e]
    · exact ⟨h.pbuf_wf, h.pbuf_within⟩
    · exact ⟨Memory.wf_write a b h.pbuf_wf, Memory.within_write b h.pbuf_within ha⟩
  have ho : t.obuf.wf ∧ t.obuf.within s.params.obufSize.toNat := by
    rcases symbol_obuf hi he with e | ⟨_, _, hc, e⟩ <;> rw [e]
    · exact ⟨h.obuf_wf, h.obuf_within⟩
    · exact ⟨copyBytes_wf _ _ h.obuf_wf, copyBytes_within _ _ h.obuf_within hc⟩
  exact ⟨hb ▸ h.ebuf_wf, hb ▸ h.ebuf_within, hp.1, hp.2, ho.1, (exec_params he) ▸ ho.2⟩

/-- A host event writes EBUF at most, inside its size. -/
theorem MemoryInv.host (h : MemoryInv s) (hk : HostKeeps i s t) : MemoryInv t := by
  have he : t.ebuf.wf ∧ t.ebuf.within ebufSize := by
    rcases hk.ebuf with e | ⟨_, _, a, b, ha, e⟩ <;> rw [e]
    · exact ⟨h.ebuf_wf, h.ebuf_within⟩
    · exact ⟨Memory.wf_write a b h.ebuf_wf, Memory.within_write b h.ebuf_within ha⟩
  exact ⟨he.1, he.2, hk.pbuf ▸ h.pbuf_wf, hk.pbuf ▸ h.pbuf_within, hk.obuf ▸ h.obuf_wf,
    by rw [hk.obuf, hk.params]; exact h.obuf_within⟩

/-- A host event leaves the decoder or starts it, and keeps DEC_CAP legal. -/
theorem DecoderInv.host (h : DecoderInv s) (hk : HostKeeps i s t) : DecoderInv t := by
  rcases hk.dec with hd | ⟨_, _, rfl⟩
  · exact h.congr hk.params hd hk.pbuf (hk.decCap.elim (fun e => e ▸ h.decCap_legal) id)
  · exact h.startDecode

/-- A host event leaves the encoder or starts it, and leaves EBUF while the encoder is busy. -/
theorem EncoderInv.host (h : EncoderInv s) (hk : HostKeeps i s t) : EncoderInv t := by
  rcases hk.enc with he | ⟨_, _, rfl⟩
  · obtain ⟨r, henv⟩ := hk.env
    refine h.congr hk.params he (fun hb => ?_) fun _ => by rw [henv]
    rcases hk.ebuf with e | ⟨hidle, _⟩
    · exact ebufByte_congr e hk.resets
    · simp [hb] at hidle
  · exact .startEncode s

/-- After RESET the machine is as the reset state in what the invariant reads (70 R129 to R131). -/
theorem inv_afterReset (s : State) : Inv s.afterReset where
  memory := (memoryInv_resetOf s.params).congr rfl rfl rfl rfl
  decoder := (decoderInv_resetOf s.params).congr rfl rfl rfl (Nat.le_refl _)
  encoder := (encoderInv_resetOf s.params).congr rfl rfl nofun nofun

theorem exec_inv (h : Inv s) (he : exec i s = .next t) : Inv t := by
  obtain ⟨hm, hd, henc⟩ := h
  rcases exec_kinds he with hi | hi | rfl | hk
  · have keeps := symbol_keeps hi he
    exact ⟨hm.symbol hi he, hd.symbol hi he,
      henc.congr (by rw [keeps]) (by rw [keeps]) (fun _ _ => by rw [keeps]; rfl) fun _ => by rw [keeps]⟩
  · have keeps := response_keeps hi he
    exact ⟨hm.congr (by rw [keeps]) (by rw [keeps]) (by rw [keeps]) (by rw [keeps]),
      hd.congr (by rw [keeps]) (by rw [keeps]) (by rw [keeps]) (by rw [keeps]; exact hd.decCap_legal),
      henc.response hi he⟩
  · cases he; exact inv_afterReset s
  · exact ⟨hm.host hk, hd.host hk, henc.host hk⟩

end

/-- Settles O5: a step moves the schedule only, or runs an event on a state that differs in the queues, and both keep
the invariant. -/
theorem everyStepKeepsTheInvariant : Obligations.EveryStepKeepsTheInvariant := by
  unfold Obligations.EveryStepKeepsTheInvariant
  intro s t h he
  rcases step_cases s with ⟨l, e⟩ | ⟨p, env, e, hw, _⟩ <;> rw [e] at he
  · cases he; exact h.withEnv rfl
  · exact exec_inv (h.withEnv hw) he

/-! ## What the registers show -/

section
variable {s : State}

theorem DecoderInv.count_le (h : DecoderInv s) : s.dec.count.toNat ≤ 5 + s.dec.len.toNat := by
  cases hd : s.dec.done
  case true => exact (h.recorded hd).count_le
  case false =>
    cases hb : s.decBusy
    case true =>
      have hn := (h.position.busy_bounds ((State.decBusy_eq_true s).1 hb)).1
      omega
    case false => rw [h.untouched hb hd]; exact Nat.zero_le _

theorem EncoderInv.count_le (h : EncoderInv s) : s.enc.count.toNat ≤ 5 + s.enc.len.toNat := by
  cases hd : s.enc.done
  case true => exact (h.recorded hd).count_le
  case false =>
    cases hb : s.encBusy
    case true => exact (h.position.count_lt ((State.encBusy_eq_true s).1 hb)).le
    case false => rw [h.untouched hb hd]; exact Nat.zero_le _

/-- A STATUS word by the state of its unit (10 R18, R21): BUSY alone, DONE and CODE, or 0. -/
theorem statusWord_eq {busy done : Bool} {code : StatusCode} (hb : busy = true → done = false)
    (hd : done = false → code = .ok) :
    statusWord busy done code =
      if busy then (1 : Word) else if done then (2 : Word) ||| (code.bits.setWidth 32 <<< 4) else 0 := by
  cases busy
  case true => rw [hb rfl, hd (hb rfl)]; rfl
  case false =>
    cases done
    case true => cases code <;> rfl
    case false => rw [hd rfl]; rfl

end

/-- Settles O52: the registers by the parts of the invariant that bound and relate the fields they show. -/
theorem statusRegistersShowTheUnits : Obligations.StatusRegistersShowTheUnits := by
  unfold Obligations.StatusRegistersShowTheUnits
  intro s h
  obtain ⟨-, hd, he⟩ := h
  have count_read (c : Count) (n : Half) (h : c.toNat ≤ 5 + n.toNat) : (c.setWidth 32).toNat ≤ 65540 := by
    have hn := n.isLt
    rw [BitVec.toNat_setWidth_of_le (by decide)]
    omega
  refine ⟨statusWord_eq hd.busy_not_done hd.code_until_done, statusWord_eq he.busy_not_done he.code_until_done,
    count_read _ _ hd.count_le, count_read _ _ he.count_le, fun hl => ?_, fun hk => ?_, ?_⟩
  · show flagWord s.dec.lenValid <<< 16 ||| s.dec.len.setWidth 32 = 0
    rw [hl, hd.len_until_valid hl]; rfl
  · show flagWord s.dec.chkValid <<< 8 ||| s.dec.chk.setWidth 32 = 0
    rw [hk, hd.chk_until_valid hk]; rfl
  · show (s.decCap.setWidth 32).toNat ≤ _
    rw [BitVec.toNat_setWidth_of_le (by decide)]
    exact hd.decCap_legal

/-! ## The registers after reset -/

/-- Every register but DEC_CAP reads 0 after reset (10 R36). -/
theorem csrValue_resetOf (p : Params) {r : Csr} (hr : r ≠ .decCap) : (State.resetOf p).csrValue r = 0 := by
  cases r
  case decCap => exact absurd rfl hr
  case encStatus | decStatus => show statusWord false false .ok = 0; rfl
  case decLen => show flagWord false <<< 16 ||| (0 : Half).setWidth 32 = 0; rfl
  case decChk => show flagWord false <<< 8 ||| (0 : Byte).setWidth 32 = 0; rfl
  all_goals rfl

theorem eq_four_of_csrAt_decCap {offset : Half} (h : csrAt offset = some .decCap) : offset = 4 := by
  unfold csrAt at h
  split at h <;> cases h
  next h4 => exact BitVec.eq_of_toNat_eq h4

theorem csrRead_resetOf (p : Params) {offset : Half} (h : offset ≠ 4) : (State.resetOf p).csrRead offset = 0 := by
  rw [State.csrRead]
  cases hr : csrAt offset
  case none => rfl
  case some r => exact csrValue_resetOf p fun e => h (eq_four_of_csrAt_decCap (e ▸ hr))

/-- Settles O1: the reset state field by field, and DEC_CAP's index apart from the others. -/
theorem resetLeavesTheResetValues : Obligations.ResetLeavesTheResetValues := by
  unfold Obligations.ResetLeavesTheResetValues
  refine fun p => ⟨rfl, fun offset => ?_, rfl, rfl, rfl, rfl, rfl, fun a => ⟨rfl, rfl, rfl⟩⟩
  split_ifs with h
  · rw [h]; exact csrRead_decCap_resetOf p
  · exact csrRead_resetOf p h

/-- Settles O4, by the three parts of the invariant at reset. -/
theorem invariantHoldsAfterReset : Obligations.InvariantHoldsAfterReset := inv_resetOf

end Sys2Proof.Machine
end

section
/-! Obligations of 20_memory.md: the event that placed bits run, what the host's reads and writes leave, that results
and EBUF stay while they must, and that no event stops FRC. -/

namespace Sys2Proof.Machine

/-! ## Bits placed as the next event -/

section
variable (s : State)

theorem placeWord_hbr64 (w : BitVec 64) : placeWord s 64 w.toNat = s.placeRequest w := by
  simp [placeWord, readPacket, State.place, w.isLt]

theorem placeWord_cmd32 (w : Word) : placeWord s 32 w.toNat = s.placeRequest (hbr64 1 0 0 0 w) := by
  simp [placeWord, readPacket, State.place, w.isLt]

theorem placeWord_rxsym10 (w : BitVec 10) : placeWord s 16 w.toNat = s.placeSymbol w := by
  simp [placeWord, readPacket, State.place, w.isLt]

theorem placeWord_txrsp2 (w : BitVec 2) : placeWord s 8 w.toNat = s.placeResponse w := by
  simp [placeWord, readPacket, State.place, w.isLt]

/-- A command word comes as the write to CMD that carries it (30 R65). -/
theorem decode_cmdWrite (w : Word) : decode (.hbr64 (hbr64 1 0 0 0 w)) = .csrw 0 w := by
  simp [decode, decodeRequest]

@[simp] theorem State.readyDecoder_decBusy : s.readyDecoder.decBusy = true := by
  unfold State.readyDecoder
  split_ifs with hb
  · exact hb
  · rfl

@[simp] theorem State.readyEncoder_encBusy : s.readyEncoder.encBusy = true := by
  unfold State.readyEncoder
  split_ifs with hb
  · exact hb
  · rfl

@[simp] theorem State.readyDecoder_env : s.readyDecoder.env = s.env := by
  unfold State.readyDecoder
  split_ifs <;> rfl

@[simp] theorem State.readyEncoder_env : s.readyEncoder.env = s.env := by
  unfold State.readyEncoder
  split_ifs <;> rfl

theorem step_placeRequest (w : BitVec 64) : step (s.placeRequest w) = exec (decode (.hbr64 w)) s :=
  step_of_fetch_some ((fetch_of_schedule_host rfl).trans (State.takeRequest_cons rfl))

/-- The symbol is taken from the started decoder, and the environment is as before the placing (10 R35). -/
theorem step_placeSymbol (w : BitVec 10) : step (s.placeSymbol w) = exec (decode (.rxsym10 w)) s.readyDecoder := by
  have taken := step_of_fetch_some ((fetch_of_schedule_rxSource (s := s.placeSymbol w) rfl).trans
    (State.takeSymbol_cons rfl s.readyDecoder_decBusy))
  refine taken.trans (congrArg _ ?_)
  show { s.readyDecoder with env := s.env } = s.readyDecoder
  rw [← s.readyDecoder_env]

/-- The response is taken by the started encoder, and the environment is as before the placing (10 R35). -/
theorem step_placeResponse (w : BitVec 2) : step (s.placeResponse w) = exec (decode (.txrsp2 w)) s.readyEncoder := by
  have taken := step_of_fetch_some ((fetch_of_schedule_txSink (s := s.placeResponse w) rfl).trans
    (State.takeResponse_cons rfl s.readyEncoder_encBusy))
  refine taken.trans (congrArg _ ?_)
  show { s.readyEncoder with env := s.env } = s.readyEncoder
  rw [← s.readyEncoder_env]

end

/-- Settles O9: per format, what is placed, and the step that takes it. -/
theorem placedInputRunsNext : Obligations.PlacedInputRunsNext := by
  unfold Obligations.PlacedInputRunsNext State.withFetchWord
  refine fun s => ⟨fun w => ?_, fun w => ?_, fun w => ?_, fun w => ?_, ?_⟩
  · rw [placeWord_hbr64, step_placeRequest]
  · rw [placeWord_cmd32, step_placeRequest, decode_cmdWrite]
    exact command_eq_exec w s
  · rw [placeWord_rxsym10, step_placeSymbol]; rfl
  · rw [placeWord_txrsp2, step_placeResponse]; rfl
  · exact step_of_fetch_some (fetch_of_schedule_resetLine rfl)

/-! ## No event stops FRC -/

section
variable {s : State}

/-- A payload byte's place exists in PBUF: LENGTH is at most PBUF_SIZE (10 R31). -/
theorem Decoder.Position.idx_lt_pbufSize {d : Decoder} (h : d.Position) (hs : d.state = .dPay) :
    d.idx.toNat < pbufSize := by
  rw [Decoder.Position, hs] at h
  obtain ⟨-, hi, -⟩ := h
  have hl := d.len.isLt
  rw [pbufSize]; omega

/-- The offered payload byte exists in EBUF: LENGTH is at most EBUF_SIZE (10 R30). -/
theorem Encoder.Position.idx_lt_ebufSize {e : Encoder} (h : e.Position) (hs : e.state = .ePay) :
    e.idx.toNat < ebufSize := by
  rw [Encoder.Position, hs] at h
  obtain ⟨-, hi⟩ := h
  have hl := e.len.isLt
  rw [ebufSize]; omega

theorem command_answers (w : Word) (s : State) : ∃ t, command w s = .next t := by
  rcases command_cases w s with ⟨_, e⟩ | ⟨_, e⟩ | ⟨_, e⟩ | ⟨_, _, _, e⟩ <;> exact ⟨_, e⟩

theorem execCsrw_answers (offset : Half) (w : Word) (s : State) : ∃ t, execCsrw offset w s = .next t := by
  rcases execCsrw_cases offset w s with ⟨_, e⟩ | ⟨_, e⟩ | ⟨_, e⟩ | ⟨_, e⟩ | ⟨_, _, _, _, e⟩
  · rw [e]; exact command_answers w s
  all_goals exact ⟨_, e⟩

theorem execEbw_answers (offset : Half) (w : Word) (s : State) : ∃ t, execEbw offset w s = .next t := by
  rcases execEbw_cases offset w s with ⟨_, e⟩ | ⟨_, _, e⟩ | ⟨_, _, e⟩ <;> exact ⟨_, e⟩

/-- A data byte meets neither of its two faults: the payload stays inside PBUF, and the final copy inside OBUF. -/
theorem DecoderInv.execRxByte_answers (h : DecoderInv s) (b : Byte) : ∃ t, Machine.execRxByte b s = .next t := by
  rcases execRxByte_cases b s with ⟨_, e⟩ | ⟨_, _, e⟩ | ⟨_, _, e⟩ | ⟨_, e⟩ | ⟨_, e⟩ | ⟨hs, hi, _⟩ | ⟨_, _, e⟩ |
    ⟨_, _, e⟩ | ⟨_, _, e⟩ | ⟨_, _, e⟩ | ⟨_, hc, _⟩ | ⟨_, _, _, e⟩
  -- D_PAY, a place past PBUF
  pick_goal 6
  · exact absurd hi (Nat.not_le_of_lt (h.position.idx_lt_pbufSize hs))
  -- D_CHK, a copy past OBUF
  pick_goal 10
  · exact absurd hc (Nat.not_lt_of_le (copyLength_le h.cap_legal))
  all_goals exact ⟨_, e⟩

/-- An acceptance meets no fault: the payload is inside EBUF. -/
theorem EncoderInv.execTxAccept_answers (h : EncoderInv s) : ∃ t, execTxAccept s = .next t := by
  rcases execTxAccept_cases s with ⟨_, e⟩ | ⟨_, _, _, hs, hi, _⟩ | ⟨_, _, _, _, e⟩
  · exact ⟨_, e⟩
  · exact absurd hi (Nat.not_le_of_lt (h.position.idx_lt_ebufSize hs))
  · exact ⟨_, e⟩

/-- Only a data byte and an acceptance can fault at all, and the invariant excludes both. -/
theorem Inv.exec_answers (h : Inv s) (i : Instr) : ∃ t, exec i s = .next t := by
  cases i
  case csrw offset w => exact execCsrw_answers offset w s
  case ebw offset w => exact execEbw_answers offset w s
  case ebr offset w => exact ⟨_, execEbr_eq offset s⟩
  case obr offset w => exact ⟨_, execObr_eq offset s⟩
  case encode => exact command_answers 1 s
  case decode => exact command_answers 2 s
  case rxByte b => exact h.decoder.execRxByte_answers b
  case rxExhausted b => exact ⟨_, execRxExhausted_eq s⟩
  case txAccept => exact h.encoder.execTxAccept_answers
  all_goals exact ⟨_, rfl⟩

end

/-- Settles O6: a step that runs an event runs it on a state that meets the invariant too, and there it answers. -/
theorem noStepStopsTheMachine : Obligations.NoStepStopsTheMachine := by
  unfold Obligations.NoStepStopsTheMachine
  intro s h
  rcases step_cases s with ⟨l, e⟩ | ⟨p, env, e, hw, _⟩
  · exact ⟨_, e⟩
  · rw [e]; exact (h.withEnv hw).exec_answers (decode p)

/-! ## The host's reads -/

/-- The byte of a write as the word that a read of it gives (30 R64, 40 R75). -/
theorem wdataByte_setWidth (w : Word) : (wdataByte w).setWidth 32 = BitVec.ofNat 32 (w.toNat % 256) := by
  apply BitVec.eq_of_toNat_eq
  simp [wdataByte]

/-- Settles O22, by the store of an idle encoder's EBUF write and the byte that is read back from it. -/
theorem ebufWriteReadsBack : Obligations.EbufWriteReadsBack := by
  unfold Obligations.EbufWriteReadsBack
  intro offset wdata wdata' s ho hb
  rcases execEbw_cases offset wdata s with ⟨h, _⟩ | ⟨_, h, _⟩ | ⟨_, _, e⟩
  · exact absurd h ho
  · simp [hb] at h
  · refine ⟨_, _, e, execEbr_eq offset _, ?_⟩
    rw [if_neg ho, State.storeEbuf_ebufByte, if_pos rfl, wdataByte_setWidth]; rfl

/-- An instruction that only answers a word, and whose word its own answer does not change, changes nothing else and
answers that word again when it is repeated (20 R48). -/
theorem hostRead_frame {i : Instr} {rdata : State → Word} (he : ∀ s, exec i s = .next (s.respond (rdata s))) (s : State)
    (hr : rdata (s.respond (rdata s)) = rdata s) :
    ∃ t u v, exec i s = .next t ∧ t.env.responses = s.env.responses ++ [v] ∧
      t = { s with env := { s.env with responses := t.env.responses } } ∧ SameBytes s t ∧
      exec i t = .next u ∧ u.env.responses = t.env.responses ++ [v] :=
  ⟨_, _, rdata s, he s, rfl, rfl, fun _ => ⟨rfl, rfl, rfl⟩, he _, by rw [hr]; rfl⟩

/-- Settles O26: each of the four reads answers a word that no answer changes. -/
theorem hostReadsHaveNoSideEffect : Obligations.HostReadsHaveNoSideEffect := by
  unfold Obligations.HostReadsHaveNoSideEffect
  rintro i offset wdata rsv space s (rfl | rfl | rfl | rfl)
  · exact hostRead_frame (rdata := (·.csrRead offset)) (fun _ => rfl) s rfl
  · exact hostRead_frame (i := .ebr offset wdata) (execEbr_eq offset) s rfl
  · exact hostRead_frame (i := .obr offset wdata) (execObr_eq offset) s rfl
  · exact hostRead_frame (rdata := fun _ => 0) (fun _ => rfl) s rfl

/-! ## The host's writes -/

section
variable {s t : State} {i : Instr} {offset : Half} {wdata : Word} {rsv : BitVec 13} {space : BitVec 2}

/-- What a host write that is no command of a unit can do (40 R71, R73, R74, R76, R78, R80): nothing, one refusal bit
that is no busy command's, or the one effect of its own. -/
theorem hostWrite_cases
    (hi : (i = .csrw offset wdata ∧ offset ≠ 0) ∨ i = .ebw offset wdata ∨ i = .obw offset wdata ∨
      i = .rsvw rsv space offset wdata ∨ i = .nop ∨ i = .cmdRsvd wdata)
    (h : exec i s = .next t) :
    (i = .nop ∧ t = s) ∨
    (i ≠ .nop ∧ ∃ e : ErrBit, e ≠ .encBusyCmd ∧ e ≠ .decBusyCmd ∧ t = s.setErr e) ∨
    (i = .csrw 1 wdata ∧ t = { s with encLen := wdata.setWidth 16 }) ∨
    (i = .csrw 4 wdata ∧ t = { s with decCap := legalCap s.params wdata }) ∨
    (i = .csrw 9 wdata ∧ t = s.clearErr wdata) ∨
    (i = .ebw offset wdata ∧ t = s.storeEbuf offset.toNat (wdataByte wdata)) := by
  rcases hi with ⟨rfl, ho⟩ | rfl | rfl | rfl | rfl | rfl
  · rw [show exec (.csrw offset wdata) s = execCsrw offset wdata s from rfl] at h
    rcases execCsrw_cases offset wdata s with ⟨rfl, _⟩ | ⟨rfl, e⟩ | ⟨rfl, e⟩ | ⟨rfl, e⟩ | ⟨_, _, _, _, e⟩
    · exact absurd rfl ho
    all_goals rw [e] at h; cases h
    · exact .inr (.inr (.inl ⟨rfl, rfl⟩))
    · exact .inr (.inr (.inr (.inl ⟨rfl, rfl⟩)))
    · exact .inr (.inr (.inr (.inr (.inl ⟨rfl, rfl⟩))))
    · exact .inr (.inl ⟨nofun, .badAccess, nofun, nofun, rfl⟩)
  · rw [show exec (.ebw offset wdata) s = execEbw offset wdata s from rfl] at h
    rcases execEbw_cases offset wdata s with ⟨_, e⟩ | ⟨_, _, e⟩ | ⟨_, _, e⟩ <;> rw [e] at h <;> cases h
    · exact .inr (.inl ⟨nofun, .badAccess, nofun, nofun, rfl⟩)
    · exact .inr (.inl ⟨nofun, .ebufWrBusy, nofun, nofun, rfl⟩)
    · exact .inr (.inr (.inr (.inr (.inr ⟨rfl, rfl⟩))))
  · cases h; exact .inr (.inl ⟨nofun, .badAccess, nofun, nofun, rfl⟩)
  · cases h; exact .inr (.inl ⟨nofun, .badAccess, nofun, nofun, rfl⟩)
  · cases h; exact .inl ⟨rfl, rfl⟩
  · cases h; exact .inr (.inl ⟨nofun, .rsvdCmd, nofun, nofun, rfl⟩)

/-- A refusal that is no dropped command leaves the two busy-command flags (10 R25). -/
theorem State.setErr_busyFlags (s : State) {e : ErrBit} (he : e ≠ .encBusyCmd) (hd : e ≠ .decBusyCmd) :
    (s.setErr e).errf &&& 0b00011 = s.errf &&& 0b00011 := by
  have outside : e.mask &&& 0b00011 = 0 := by
    cases e
    case encBusyCmd => exact absurd rfl he
    case decBusyCmd => exact absurd rfl hd
    all_goals rfl
  rw [State.setErr_errf, BitVec.and_comm, BitVec.and_or_distrib_left, BitVec.and_comm _ e.mask, outside]
  simp [BitVec.and_comm]

end

/-- Settles O27: per effect of a host write, the fields that it leaves. -/
theorem hostWriteFrame : Obligations.HostWriteFrame := by
  unfold Obligations.HostWriteFrame
  intro i offset wdata rsv space s t hi h
  rcases hostWrite_cases hi h with ⟨rfl, rfl⟩ | ⟨hn, e, he, hd, rfl⟩ | ⟨hw, rfl⟩ | ⟨hw, rfl⟩ | ⟨hw, rfl⟩ | ⟨hw, rfl⟩
  -- no effect
  · exact ⟨rfl, rfl, rfl, rfl, rfl, fun _ => rfl, fun _ => rfl, fun _ => rfl, fun _ => rfl,
      fun _ => ⟨rfl, rfl, fun _ => rfl⟩⟩
  -- a refusal
  · exact ⟨rfl, rfl, rfl, rfl, rfl, fun _ => rfl, fun _ => rfl, fun hi => absurd hi hn,
      fun _ => s.setErr_busyFlags he hd, fun _ => ⟨rfl, rfl, fun _ => rfl⟩⟩
  -- ENC_LEN
  · exact ⟨rfl, rfl, rfl, rfl, rfl, absurd hw, fun _ => rfl, fun _ => rfl, fun _ => rfl,
      fun _ => ⟨rfl, rfl, fun _ => rfl⟩⟩
  -- DEC_CAP
  · exact ⟨rfl, rfl, rfl, rfl, rfl, fun _ => rfl, absurd hw, fun _ => rfl, fun _ => rfl,
      fun _ => ⟨rfl, rfl, fun _ => rfl⟩⟩
  -- ERRF
  · exact ⟨rfl, rfl, rfl, rfl, rfl, fun _ => rfl, fun _ => rfl, by rw [hw]; nofun, absurd hw,
      fun _ => ⟨rfl, rfl, fun _ => rfl⟩⟩
  -- EBUF
  · refine ⟨rfl, rfl, rfl, rfl, rfl, fun _ => rfl, fun _ => rfl, fun _ => rfl, fun _ => rfl,
      fun a => ⟨rfl, rfl, fun ha => ?_⟩⟩
    rw [State.storeEbuf_ebufByte, if_neg fun e => ha ⟨hw, e⟩]

/-! ## What stays while a unit is busy, or idle -/

/-- Settles O47: the units' events leave EBUF, and a host event writes it only while the encoder is idle. -/
theorem ebufIsFixedWhileEncoding : Obligations.EbufIsFixedWhileEncoding := by
  unfold Obligations.EbufIsFixedWhileEncoding
  intro i s t hb hr h a
  rcases exec_kinds h with hi | hi | rfl | hk
  · rw [symbol_keeps hi h]; rfl
  · rw [response_keeps hi h]; rfl
  · exact absurd rfl hr
  · rcases hk.ebuf with e | ⟨hidle, _⟩
    · exact ebufByte_congr e hk.resets a
    · simp [hb] at hidle

/-- Settles O50: an idle unit takes none of its own events, no other event touches it, and of the host's only its
command starts it. -/
theorem resultsStayUntilTheNextCommand : Obligations.ResultsStayUntilTheNextCommand := by
  unfold Obligations.ResultsStayUntilTheNextCommand
  constructor
  · intro i s t hb hd hr h
    rcases exec_kinds h with hi | hi | rfl | hk
    · rw [symbol_idle hi hb] at h
      cases h; exact ⟨rfl, fun _ => rfl⟩
    · rw [response_keeps hi h]; exact ⟨rfl, fun _ => rfl⟩
    · exact absurd rfl hr
    · exact ⟨hk.dec.resolve_right fun c => hd c.1, obufByte_congr hk.obuf hk.resets⟩
  · intro i s t hb he hr h
    rcases exec_kinds h with hi | hi | rfl | hk
    · rw [symbol_keeps hi h]
    · rw [response_idle hi hb] at h
      cases h; rfl
    · exact absurd rfl hr
    · exact hk.enc.resolve_right fun c => he c.1

end Sys2Proof.Machine
end

section
/-! Obligations of 30_encoding.md: decoding and encoding are inverse on the well-formed instructions, the selectors
choose the rows, and the two bytes of LENGTH give it back. -/

namespace Sys2Proof.Machine

/-! ## A word built of its fields -/

/-- The formula of 30 R60 puts the fields side by side. -/
theorem append_eq_hbr64 (rw : BitVec 1) (sp : BitVec 2) (rsv : BitVec 13) (off : Half) (wd : Word) :
    wd ++ off ++ rsv ++ sp ++ rw = hbr64 rw sp rsv off wd := by
  apply BitVec.eq_of_toNat_eq
  simp only [BitVec.toNat_append, hbr64_toNat, shift_or_eq_add, BitVec.isLt]
  omega

theorem append_eq_rxsym10 (kind : BitVec 2) (data : Byte) : kind ++ data = rxsym10 kind data := by
  apply BitVec.eq_of_toNat_eq
  simp only [BitVec.toNat_append, rxsym10_toNat, shift_or_eq_add, BitVec.isLt]

/-- The row that RSV, SPACE and RW choose (30 R65). -/
theorem decode_hbr64 (rw : BitVec 1) (sp : BitVec 2) (rsv : BitVec 13) (off : Half) (wd : Word) :
    decode (.hbr64 (hbr64 rw sp rsv off wd)) =
      if ReservedRequest rsv sp then if rw = 0 then .rsvr rsv sp off wd else .rsvw rsv sp off wd
      else if sp = 0 then if rw = 0 then .csrr off wd else .csrw off wd
      else if sp = 1 then if rw = 0 then .ebr off wd else .ebw off wd
      else if rw = 0 then .obr off wd else .obw off wd := by
  simp only [decode, decodeRequest, hbrRw_hbr64, hbrSpace_hbr64, hbrRsv_hbr64, hbrOffset_hbr64, hbrWdata_hbr64]

/-- The row that KIND chooses (30 R65). -/
theorem decode_rxsym10 (kind : BitVec 2) (data : Byte) :
    decode (.rxsym10 (rxsym10 kind data)) =
      if kind = 0 then .rxByte data else if kind = 1 then .rxExhausted data
      else if kind = 2 then .rxFault data else .rxTimeout data := by
  simp only [decode, decodeSymbol, rxKind_rxsym10, rxData_rxsym10]

/-- A reserved request keeps its RSV and SPACE, and RW chooses between the two reserved rows (40 R79, R80). -/
theorem decode_hbr64_reserved (rw : BitVec 1) {sp : BitVec 2} {rsv : BitVec 13} (off : Half) (wd : Word)
    (h : ReservedRequest rsv sp) :
    decode (.hbr64 (hbr64 rw sp rsv off wd)) = if rw = 0 then .rsvr rsv sp off wd else .rsvw rsv sp off wd := by
  rw [decode_hbr64, if_pos h]

/-- A reserved command keeps its word (40 R74). -/
theorem decode_cmd32_reserved {w : Word} (h : ReservedCommand w) : decode (.cmd32 w) = .cmdRsvd w := by
  obtain ⟨h0, h1, h2⟩ := h
  simp only [decode, decodeCommand, if_neg h0, if_neg h1, if_neg h2]

/-! ## Decoding and encoding are inverse -/

/-- Settles O11, per row: a row of fixed selectors by the fields of its format, a fallback row by its reserved bits. -/
theorem decodeOfEncodeIsTheInstruction : Obligations.DecodeOfEncodeIsTheInstruction := by
  unfold Obligations.DecodeOfEncodeIsTheInstruction
  intro i hi
  cases i
  case csrr off wd => exact decode_hbr64 0 0 0 off wd
  case csrw off wd => exact decode_hbr64 1 0 0 off wd
  case ebr off wd => exact decode_hbr64 0 1 0 off wd
  case ebw off wd => exact decode_hbr64 1 1 0 off wd
  case obr off wd => exact decode_hbr64 0 2 0 off wd
  case obw off wd => exact decode_hbr64 1 2 0 off wd
  case rsvr off wd => exact decode_hbr64_reserved 0 off wd (of_decide_eq_true hi)
  case rsvw off wd => exact decode_hbr64_reserved 1 off wd (of_decide_eq_true hi)
  case cmdRsvd w => exact decode_cmd32_reserved (of_decide_eq_true hi)
  case rxByte data => exact decode_rxsym10 0 data
  case rxExhausted data => exact decode_rxsym10 1 data
  case rxFault data => exact decode_rxsym10 2 data
  case rxTimeout data => exact decode_rxsym10 3 data
  all_goals rfl

theorem exists_encode_eq_hbr64 (rw : BitVec 1) (sp : BitVec 2) (rsv : BitVec 13) (off : Half) (wd : Word) :
    ∃ i : Instr, i.WellFormed ∧ encode i = .hbr64 (hbr64 rw sp rsv off wd) := by
  by_cases hr : ReservedRequest rsv sp
  · rcases bit_cases rw with rfl | rfl
    · exact ⟨.rsvr rsv sp off wd, decide_eq_true hr, rfl⟩
    · exact ⟨.rsvw rsv sp off wd, decide_eq_true hr, rfl⟩
  · obtain ⟨hrsv, hsp⟩ := not_or.1 hr
    obtain rfl := not_not.1 hrsv
    rcases two_bit_cases sp with rfl | rfl | rfl | rfl
    · rcases bit_cases rw with rfl | rfl
      · exact ⟨.csrr off wd, rfl, rfl⟩
      · exact ⟨.csrw off wd, rfl, rfl⟩
    · rcases bit_cases rw with rfl | rfl
      · exact ⟨.ebr off wd, rfl, rfl⟩
      · exact ⟨.ebw off wd, rfl, rfl⟩
    · rcases bit_cases rw with rfl | rfl
      · exact ⟨.obr off wd, rfl, rfl⟩
      · exact ⟨.obw off wd, rfl, rfl⟩
    · exact absurd rfl hsp

theorem exists_encode_eq_cmd32 (w : Word) : ∃ i : Instr, i.WellFormed ∧ encode i = .cmd32 w := by
  by_cases hr : ReservedCommand w
  · exact ⟨.cmdRsvd w, decide_eq_true hr, rfl⟩
  · obtain rfl | rfl | rfl : w = 0 ∨ w = 1 ∨ w = 2 := by
      simpa only [not_and_or, not_not] using hr
    · exact ⟨.nop, rfl, rfl⟩
    · exact ⟨.encode, rfl, rfl⟩
    · exact ⟨.decode, rfl, rfl⟩

theorem exists_encode_eq_rxsym10 (kind : BitVec 2) (data : Byte) :
    ∃ i : Instr, i.WellFormed ∧ encode i = .rxsym10 (rxsym10 kind data) := by
  rcases two_bit_cases kind with rfl | rfl | rfl | rfl
  · exact ⟨.rxByte data, rfl, rfl⟩
  · exact ⟨.rxExhausted data, rfl, rfl⟩
  · exact ⟨.rxFault data, rfl, rfl⟩
  · exact ⟨.rxTimeout data, rfl, rfl⟩

theorem exists_encode_eq_txrsp2 (kind : BitVec 2) : ∃ i : Instr, i.WellFormed ∧ encode i = .txrsp2 kind := by
  rcases two_bit_cases kind with rfl | rfl | rfl | rfl
  · exact ⟨.txAccept, rfl, rfl⟩
  · exact ⟨.txZero, rfl, rfl⟩
  · exact ⟨.txFault, rfl, rfl⟩
  · exact ⟨.txTimeout, rfl, rfl⟩

/-- The rows cover every input (30 R66). -/
theorem exists_encode_eq (p : Packet) : ∃ i : Instr, i.WellFormed ∧ encode i = p := by
  cases p with
  | hbr64 w =>
    rw [← hbr64_fields w]
    exact exists_encode_eq_hbr64 _ _ _ _ _
  | cmd32 w => exact exists_encode_eq_cmd32 w
  | rxsym10 w =>
    rw [← rxsym10_fields w]
    exact exists_encode_eq_rxsym10 _ _
  | txrsp2 w => exact exists_encode_eq_txrsp2 w
  | resetEvent => exact ⟨.reset, rfl, rfl⟩

/-- Settles O12: every input is the encoding of a well-formed instruction, which is then what it decodes to. -/
theorem encodeOfDecodeIsTheWord : Obligations.EncodeOfDecodeIsTheWord := by
  unfold Obligations.EncodeOfDecodeIsTheWord
  intro p
  obtain ⟨i, hi, rfl⟩ := exists_encode_eq p
  rw [decodeOfEncodeIsTheInstruction i hi]
  exact ⟨hi, rfl⟩

/-! ## The selectors -/

/-- Settles O13, per format; a write to CMD runs the command that its WDATA decodes to. -/
theorem decodingFollowsTheOpcodeMap : Obligations.DecodingFollowsTheOpcodeMap := by
  unfold Obligations.DecodingFollowsTheOpcodeMap
  refine ⟨fun rw sp rsv off wd => ?_, fun s w => ?_, fun _ => rfl, fun kind data => ?_, fun _ => rfl, rfl⟩
  · rw [append_eq_hbr64]
    exact decode_hbr64 rw sp rsv off wd
  · exact command_eq_exec w s
  · rw [append_eq_rxsym10]
    exact decode_rxsym10 kind data

/-- Settles O14: a request word is read as its fields, and every other word is short enough to be evaluated. -/
theorem writtenOutWordsDecode : Obligations.WrittenOutWordsDecode := by
  unfold Obligations.WrittenOutWordsDecode
  exact ⟨decode_hbr64 0 0 0 4 0, decode_hbr64 1 0 0 4 0x10005, decode_hbr64 1 1 0 5 0x1234, decode_hbr64 0 2 0 1 0,
    decode_hbr64 1 0 1 0 1, rfl, rfl, rfl⟩

/-! ## LENGTH -/

/-- The two bytes of a length are its digits to base 256 (30 R63). -/
theorem lengthOf_lenHi_lenLo (len : Half) : lengthOf (lenHi len) (lenLo len) = len := by
  have h := len.isLt
  apply BitVec.eq_of_toNat_eq
  rw [lengthOf_toNat, lenHi_eq, lenLo_eq, BitVec.toNat_ofNat, BitVec.toNat_ofNat]
  omega

theorem State.emit_of_eLenhi {s : State} (h : s.enc.state = .eLenhi) : s.emit = some (lenHi s.enc.len) := by
  simp only [State.emit, h]

theorem State.emit_of_eLenlo {s : State} (h : s.enc.state = .eLenlo) : s.emit = some (lenLo s.enc.len) := by
  simp only [State.emit, h]

/-- The second length byte completes LENGTH (41 R86). -/
theorem execRxByte_dLenlo {s : State} (h : s.dec.state = .dLenlo) (b : Byte) :
    execRxByte b s = .next (takeLenLo b s.countByte) := by
  simp only [execRxByte, h]

/-- Settles O15: the assembly, the two bytes sent, and that they are the digits of the length. -/
theorem lengthBytesAreInverse : Obligations.LengthBytesAreInverse := by
  unfold Obligations.LengthBytesAreInverse
  refine ⟨fun b s h => ⟨_, execRxByte_dLenlo h b, ?_⟩, fun s h => ?_, fun s h => ?_, fun len => ⟨?_, ?_⟩⟩
  · exact lengthOf_toNat s.dec.lenhi b
  · rw [State.emit_of_eLenhi h, lenHi_eq]
  · rw [State.emit_of_eLenlo h, lenLo_eq]
  · exact lengthOf_lenHi_lenLo len
  · exact Nat.div_add_mod' len.toNat 256

end Sys2Proof.Machine
end

section
/-! Obligations of 40_host_interface.md: what each host request answers or stores, and which one ERRF bit a refused
request sets. -/

namespace Sys2Proof.Machine

/-! ## Reads -/

/-- The word a STATUS register shows, its three fields at their places (10 R18, R21). -/
theorem statusWord_decide (p : Prop) [Decidable p] (done : Bool) (code : StatusCode) :
    statusWord (decide p) done code =
      code.bits.setWidth 32 <<< 4 ||| (if done then (1 : Word) else 0) <<< 1 ||| (if p then (1 : Word) else 0) := by
  simp only [statusWord, flagWord, decide_eq_true_eq]

/-- The register an index reads, by the index; a reserved index reads 0 (40 R70). -/
theorem State.csrRead_eq (s : State) (offset : Half) :
    s.csrRead offset =
      if offset = 0 then s.csrValue .cmd else if offset = 1 then s.csrValue .encLen
      else if offset = 2 then s.csrValue .encStatus else if offset = 3 then s.csrValue .encCount
      else if offset = 4 then s.csrValue .decCap else if offset = 5 then s.csrValue .decStatus
      else if offset = 6 then s.csrValue .decLen else if offset = 7 then s.csrValue .decCount
      else if offset = 8 then s.csrValue .decChk else if offset = 9 then s.csrValue .errf else 0 := by
  rw [State.csrRead, csrAt_eq]
  split_ifs <;> rfl

/-- Settles O16: the register by its index; under the invariant a busy unit is not done and its code is 0. -/
theorem csrReadReturnsTheRegister : Obligations.CsrReadReturnsTheRegister := by
  unfold Obligations.CsrReadReturnsTheRegister
  intro offset wdata s
  refine ⟨?_, fun ⟨_, hd, he⟩ => ⟨fun hb => ?_, fun hb => ?_⟩⟩
  · rw [show exec (.csrr offset wdata) s = .next (s.respond (s.csrRead offset)) from rfl, State.csrRead_eq]
    simp only [State.csrValue, State.encBusy, State.decBusy, statusWord_decide, flagWord]
    rfl
  · have busy : s.csrRead 5 = 1 :=
      (statusWord_eq hd.busy_not_done hd.code_until_done).trans (if_pos ((State.decBusy_eq_true s).2 hb))
    rw [← busy]; rfl
  · have busy : s.csrRead 2 = 1 :=
      (statusWord_eq he.busy_not_done he.code_until_done).trans (if_pos ((State.encBusy_eq_true s).2 hb))
    rw [← busy]; rfl

/-- Settles O20, by the answer of an EBUF read. -/
theorem ebufReadReturnsTheByte : Obligations.EbufReadReturnsTheByte := by
  unfold Obligations.EbufReadReturnsTheByte
  exact fun offset _ s => execEbr_eq offset s

/-- Settles O23, by the answer of an OBUF read. -/
theorem obufReadReturnsTheByte : Obligations.ObufReadReturnsTheByte := by
  unfold Obligations.ObufReadReturnsTheByte
  exact fun offset _ s => execObr_eq offset s

/-! ## Writes -/

/-- The low bits of a data word, as a number (10 R17, R25). -/
theorem setWidth_eq_ofNat_mod (w : Word) (n : Nat) : w.setWidth n = BitVec.ofNat n (w.toNat % 2 ^ n) := by
  apply BitVec.eq_of_toNat_eq
  simp

theorem legalCap_eq_ofNat (p : Params) (w : Word) :
    legalCap p w = BitVec.ofNat 16 (min (w.toNat % 65536) p.obufSize.toNat) := by
  rw [← legalCap_toNat, BitVec.ofNat_toNat, BitVec.setWidth_eq]

/-- Settles O17: each effect of a CSR write at the indexes that have it. -/
theorem csrWriteStoresClearsOrFlags : Obligations.CsrWriteStoresClearsOrFlags := by
  unfold Obligations.CsrWriteStoresClearsOrFlags
  intro offset wdata s
  rw [show exec (.csrw offset wdata) s = execCsrw offset wdata s from rfl]
  rcases execCsrw_cases offset wdata s with ⟨rfl, e⟩ | ⟨rfl, e⟩ | ⟨rfl, e⟩ | ⟨rfl, e⟩ | ⟨h0, h1, h4, h9, e⟩ <;> rw [e]
  · rw [if_pos rfl]; exact command_eq_exec wdata s
  · rw [setWidth_eq_ofNat_mod]; rfl
  · rw [legalCap_eq_ofNat]; rfl
  · rw [State.clearErr, setWidth_eq_ofNat_mod]; rfl
  · rw [if_neg h0, if_neg h1, if_neg h4, if_neg h9]; rfl

/-- Settles O18: the command of a write to CMD is chosen by the whole word, as R72 writes it. -/
theorem commandWriteRunsTheCommand : Obligations.CommandWriteRunsTheCommand := by
  unfold Obligations.CommandWriteRunsTheCommand
  exact fun w s => command.eq_def w s

/-- Settles O19: the two commands that look at no unit. -/
theorem nopAndReservedCommandStartNothing : Obligations.NopAndReservedCommandStartNothing := by
  unfold Obligations.NopAndReservedCommandStartNothing
  exact fun _ _ => ⟨rfl, rfl⟩

/-- Settles O21: the three outcomes of an EBUF write, and the bytes after a store. -/
theorem ebufWriteStoresOrFlags : Obligations.EbufWriteStoresOrFlags := by
  unfold Obligations.EbufWriteStoresOrFlags
  intro offset wdata s
  rw [show exec (.ebw offset wdata) s = execEbw offset wdata s from rfl]
  rcases execEbw_cases offset wdata s with ⟨ho, e⟩ | ⟨ho, hb, e⟩ | ⟨ho, hb, e⟩
  · exact ⟨fun _ => e, absurd ho, absurd ho⟩
  · exact ⟨fun h => absurd h ho, fun _ _ => e, fun _ h => absurd h ((State.encBusy_eq_true s).1 hb)⟩
  · refine ⟨fun h => absurd h ho, fun _ h => absurd ((State.encBusy_eq_false s).1 hb) h,
      fun _ _ => ⟨_, e, rfl, fun a => ?_⟩⟩
    rw [State.storeEbuf_ebufByte, wdataByte, setWidth_eq_ofNat_mod]; rfl

/-- Settles O24: a refused write sets its bit, and a reserved read answers 0, whatever the operands. -/
theorem reservedRequestsAreIgnored : Obligations.ReservedRequestsAreIgnored := by
  unfold Obligations.ReservedRequestsAreIgnored
  exact fun _ _ _ _ _ => ⟨rfl, rfl, rfl⟩

/-! ## One refusal bit per request -/

/-- A request with RW = 0 is one of the four reads (30 R65). -/
theorem decode_hbr64_read (sp : BitVec 2) (rsv : BitVec 13) (off : Half) (wd : Word) :
    decode (.hbr64 (hbr64 0 sp rsv off wd)) = .csrr off wd ∨ decode (.hbr64 (hbr64 0 sp rsv off wd)) = .ebr off wd ∨
      decode (.hbr64 (hbr64 0 sp rsv off wd)) = .obr off wd ∨
      decode (.hbr64 (hbr64 0 sp rsv off wd)) = .rsvr rsv sp off wd := by
  simp only [decode_hbr64, if_pos]
  split_ifs
  · exact .inr (.inr (.inr rfl))
  · exact .inl rfl
  · exact .inr (.inl rfl)
  · exact .inr (.inr (.inl rfl))

/-- A command is refused as reserved or for its busy unit, and a command that is not refused sets no bit (40 R72 to R74,
41 R85, 42 R98). -/
theorem command_refusal (w : Word) (s : State) :
    ∃ t, command w s = .next t ∧
      if ReservedCommand w then t = s.setErr .rsvdCmd
      else if w = 1 ∧ s.encBusy = true then t = s.setErr .encBusyCmd
      else if w = 2 ∧ s.decBusy = true then t = s.setErr .decBusyCmd
      else ∀ k, t.errf.getLsbD k = true → s.errf.getLsbD k = true := by
  rcases command_cases w s with ⟨rfl, e⟩ | ⟨rfl, e⟩ | ⟨rfl, e⟩ | ⟨h0, h1, h2, e⟩ <;> refine ⟨_, e, ?_⟩
  · simp
  · cases hb : s.encBusy <;> simp
  · cases hb : s.decBusy <;> simp
  · rw [if_pos ⟨h0, h1, h2⟩]

/-- A write to ERRF sets no bit (40 R71). -/
theorem State.getLsbD_of_clearErr {s : State} {w : Word} {k : Nat} (h : (s.clearErr w).errf.getLsbD k = true) :
    s.errf.getLsbD k = true := by
  rw [State.clearErr_errf, BitVec.getLsbD_and, Bool.and_eq_true] at h
  exact h.1

/-- Settles O25: reads come first; a write is refused as a reserved request, or by what its space can do. -/
theorem oneRefusalBitPerRequest : Obligations.OneRefusalBitPerRequest := by
  unfold Obligations.OneRefusalBitPerRequest
  intro rw sp rsv off wd s
  rcases bit_cases rw with rfl | rfl
  · obtain ⟨t, _, _, e, _, ht, _⟩ := hostReadsHaveNoSideEffect _ off wd rsv sp s (decode_hbr64_read sp rsv off wd)
    exact ⟨t, e, by rw [if_pos rfl, ht]⟩
  by_cases hr : ReservedRequest rsv sp
  · rw [decode_hbr64_reserved _ _ _ hr]
    exact ⟨_, rfl, by rw [if_neg (by decide), if_pos hr]; rfl⟩
  rw [decode_hbr64, if_neg hr]
  simp only [if_neg hr]
  rcases two_bit_cases sp with rfl | rfl | rfl | rfl
  -- the CSR space
  · show ∃ t, execCsrw off wd s = .next t ∧ _
    rcases execCsrw_cases off wd s with ⟨rfl, e⟩ | ⟨rfl, e⟩ | ⟨rfl, e⟩ | ⟨rfl, e⟩ | ⟨h0, h1, h4, h9, e⟩
    · obtain ⟨t, e', ht⟩ := command_refusal wd s
      exact ⟨t, e.trans e', by simpa [ReservedCommand, State.setErr, ErrBit.mask] using ht⟩
    · exact ⟨_, e, fun _ => id⟩
    · exact ⟨_, e, fun _ => id⟩
    · exact ⟨_, e, fun _ => State.getLsbD_of_clearErr⟩
    · exact ⟨_, e, (if_pos (Or.inl ⟨rfl, h0, h1, h4, h9⟩)).mpr rfl⟩
  -- the EBUF space
  · show ∃ t, execEbw off wd s = .next t ∧ _
    rcases execEbw_cases off wd s with ⟨rfl, e⟩ | ⟨ho, hb, e⟩ | ⟨ho, hb, e⟩
    · exact ⟨_, e, rfl⟩
    · have real : off ≠ 65535#16 := ho
      exact ⟨_, e, by simp [hb, real, State.setErr, ErrBit.mask]⟩
    · have real : off ≠ 65535#16 := ho
      exact ⟨_, e, by simp [hb, real]⟩
  -- the OBUF space
  · exact ⟨_, rfl, rfl⟩
  -- the reserved space
  · exact absurd (.inr rfl) hr

end Sys2Proof.Machine
end

section
/-! Obligations of 41_decoder.md. What one symbol does in each state of a busy decoder is said once, per state; the
obligations about one symbol, and the decode of a whole frame, follow from that. -/

namespace Sys2Proof.Machine

/-! ## One symbol, per state of a busy decoder -/

section
variable {s : State}

/-- LENGTH is 0 when its two bytes are. -/
theorem lengthOf_eq_zero_iff (hi lo : Byte) : lengthOf hi lo = 0 ↔ hi.toNat * 256 + lo.toNat = 0 := by
  rw [← BitVec.toNat_inj, lengthOf_toNat]; rfl

theorem State.pbufBytes_eq_map (s : State) (n : Nat) : s.pbufBytes n = (List.range n).map s.pbufByte := rfl

/-- Step 1 (41 R86): START goes on to LENGTH, any other byte ends the decode. -/
theorem exec_rxByte_dHdr (h : s.dec.state = .dHdr) (b : Byte) :
    exec (.rxByte b) s = .next { s with
      dec := if b = 0x02 then { s.dec with count := s.dec.count + 1, state := .dLenhi }
        else { s.dec with count := s.dec.count + 1, state := .dIdle, done := true, code := .malformedHeader } } := by
  have e : exec (.rxByte b) s = .next (takeStart b s.countByte) := by simp only [exec, execRxByte, h]
  rw [e, takeStart, startByte]
  split_ifs <;> rfl

/-- Step 2, the high byte of LENGTH (41 R86). -/
theorem exec_rxByte_dLenhi (h : s.dec.state = .dLenhi) (b : Byte) :
    exec (.rxByte b) s = .next { s with
      dec := { s.dec with count := s.dec.count + 1, lenhi := b, state := .dLenlo } } := by
  simp only [exec, execRxByte, h]; rfl

/-- Step 2, the low byte of LENGTH (41 R86). -/
theorem exec_rxByte_dLenlo (h : s.dec.state = .dLenlo) (b : Byte) :
    exec (.rxByte b) s = .next (takeLenLo b s.countByte) := execRxByte_dLenlo h b

/-- Step 3, a payload byte whose place exists in PBUF (41 R86). -/
theorem exec_rxByte_dPay (h : s.dec.state = .dPay) (hi : s.dec.idx.toNat < pbufSize) (b : Byte) :
    exec (.rxByte b) s = .next { s.storePbuf s.dec.idx.toNat b with
      dec := { s.dec with
        count := s.dec.count + 1, idx := s.dec.idx + 1,
        state := if s.dec.idx + 1 = s.dec.len then .dTrl else .dPay } } := by
  simp only [exec, execRxByte, h]
  exact if_pos hi

/-- Step 4 (41 R86): END goes on to CHECK, any other byte ends the decode. -/
theorem exec_rxByte_dTrl (h : s.dec.state = .dTrl) (b : Byte) :
    exec (.rxByte b) s = .next { s with
      dec := if b = 0x03 then { s.dec with count := s.dec.count + 1, state := .dChk }
        else { s.dec with count := s.dec.count + 1, state := .dIdle, done := true, code := .malformedTrailer } } := by
  have e : exec (.rxByte b) s = .next (takeEnd b s.countByte) := by simp only [exec, execRxByte, h]
  rw [e, takeEnd, endByte]
  split_ifs <;> rfl

/-- Steps 5 and 6, a CHECK byte that the policy refuses: nothing is copied (41 R87). -/
theorem exec_rxByte_dChk_refused (h : s.dec.state = .dChk) {b : Byte}
    (hb : chkAccept s.params (s.pbufBytes s.dec.len.toNat) b = false) :
    exec (.rxByte b) s = .next { s with
      dec := { s.dec with
        count := s.dec.count + 1, chk := b, chkValid := true, state := .dIdle, done := true,
        code := .checksumMismatch } } := by
  simp only [exec, execRxByte, h]
  exact if_pos hb

/-- Steps 5 and 6, a CHECK byte that the policy accepts: the bounded copy, and then the capacity (41 R87). -/
theorem exec_rxByte_dChk_accepted (h : s.dec.state = .dChk) {b : Byte}
    (hb : chkAccept s.params (s.pbufBytes s.dec.len.toNat) b = true) (hc : s.dec.cap.toNat ≤ s.params.obufSize.toNat) :
    exec (.rxByte b) s = .next { s.copyToObuf s.copyLength with
      dec := { s.dec with
        count := s.dec.count + 1, chk := b, chkValid := true, state := .dIdle, done := true,
        code := if s.dec.cap.toNat < s.dec.len.toNat then .bufferTooSmall else .ok } } := by
  simp only [exec, execRxByte, h]
  rcases decComplete_cases { s.countByte with dec := { s.countByte.dec with chk := b, chkValid := true } } with
    ⟨refused, _⟩ | ⟨_, past, _⟩ | ⟨_, _, e⟩
  · exact absurd (hb.symm.trans refused) nofun
  · exact absurd past (Nat.not_lt_of_le (copyLength_le hc))
  · exact e

/-- A busy decoder is ended by a symbol that ends every decode (41 R89, R90). -/
theorem State.endDecode_of_busy (h : s.dec.state ≠ .dIdle) (c : StatusCode) : s.endDecode c = s.decFinish c :=
  if_pos ((State.decBusy_eq_true s).2 h)

end

/-- Settles O30, per state; LENGTH and the condition on it are those of its two bytes as a number, and the last event is
followed for a refused and for an accepted CHECK byte. -/
theorem receivedByteAdvancesTheParser : Obligations.ReceivedByteAdvancesTheParser := by
  unfold Obligations.ReceivedByteAdvancesTheParser
  intro b s
  refine ⟨fun h => exec_rxByte_dHdr h b, fun h => exec_rxByte_dLenhi h b, fun h => ?_, fun h hi => ?_,
    fun h => exec_rxByte_dTrl h b, fun h hc => ?_⟩
  · simp only [← lengthOf_ofNat, ← lengthOf_eq_zero_iff]
    exact exec_rxByte_dLenlo h b
  · exact ⟨_, exec_rxByte_dPay h hi b, rfl, s.storePbuf_pbufByte _ b⟩
  · rw [← State.pbufBytes_eq_map]
    cases hb : chkAccept s.params (s.pbufBytes s.dec.len.toNat) b
    case false => exact ⟨_, exec_rxByte_dChk_refused h hb, rfl, fun a => (if_neg nofun).symm⟩
    case true =>
      refine ⟨_, exec_rxByte_dChk_accepted h hb hc, rfl, fun a => ?_⟩
      simp only [true_and]
      exact s.copyToObuf_obufByte s.copyLength a

/-- Settles O31, for a refused and for an accepted CHECK byte; PLACEHOLDER accepts every byte. -/
theorem finalEventChecksCopiesAndFinishes : Obligations.FinalEventChecksCopiesAndFinishes := by
  unfold Obligations.FinalEventChecksCopiesAndFinishes
  intro b s h hc
  rw [← State.pbufBytes_eq_map]
  cases hb : chkAccept s.params (s.pbufBytes s.dec.len.toNat) b
  case false =>
    have verifying : s.params.policy ≠ .placeholder := fun hp => by simp [chkAccept_placeholder hp] at hb
    exact ⟨_, exec_rxByte_dChk_refused h hb, rfl, rfl, rfl, rfl, fun _ => ⟨rfl, fun _ => rfl⟩, nofun,
      fun hp => absurd hp verifying⟩
  case true =>
    refine ⟨_, exec_rxByte_dChk_accepted h hb hc, rfl, rfl, rfl, rfl, nofun,
      fun _ => ⟨rfl, s.copyToObuf_obufByte s.copyLength⟩, fun _ => ?_⟩
    dsimp only
    split_ifs <;> nofun

/-- Settles O32, by the structural failure of each state. -/
theorem exhaustedGivesTheStructuralFailure : Obligations.ExhaustedGivesTheStructuralFailure := by
  unfold Obligations.ExhaustedGivesTheStructuralFailure
  intro data s hs
  rw [show exec (.rxExhausted data) s = execRxExhausted s from rfl, execRxExhausted_eq]
  cases h : s.dec.state
  case dIdle => exact absurd h hs
  all_goals rfl

/-- Settles O33: both symbols end a busy decode without a look at its state. -/
theorem readFailuresPassThrough : Obligations.ReadFailuresPassThrough := by
  unfold Obligations.ReadFailuresPassThrough
  exact fun _ s hs => ⟨congrArg Host.Outcome.next (State.endDecode_of_busy hs .readFailure),
    congrArg Host.Outcome.next (State.endDecode_of_busy hs .readTimeout)⟩

/-- Settles O29, by the busy check of the command. -/
theorem decodeStartsOrIsDropped : Obligations.DecodeStartsOrIsDropped := by
  unfold Obligations.DecodeStartsOrIsDropped
  exact fun s => ⟨fun h => if_pos ((State.decBusy_eq_true s).2 h),
    fun h => if_neg (by simpa using h)⟩

/-! ## Where a symbol leaves the decoder -/

section
variable {i : Instr} {s t : State}

/-- A symbol that a busy decoder takes is a byte, or it ends the decode as it is, with the structural failure of its step
or with the failure of the read (41 R86, R88 to R90). -/
theorem symbol_cases (hi : i.IsSymbol) (hs : s.dec.state ≠ .dIdle) :
    (∃ b, i = .rxByte b) ∨
    ((∀ b, i ≠ .rxByte b) ∧ ∃ c, exec i s = .next (s.decFinish c) ∧
      (exhaustedCode s.dec.state = some c ∨ c = .readFailure ∨ c = .readTimeout)) := by
  rcases hi with ⟨b, rfl⟩ | ⟨b, rfl⟩ | ⟨b, rfl⟩ | ⟨b, rfl⟩
  · exact .inl ⟨b, rfl⟩
  · refine .inr ⟨nofun, ?_⟩
    rw [show exec (.rxExhausted b) s = execRxExhausted s from rfl, execRxExhausted_eq]
    cases h : s.dec.state
    case dIdle => exact absurd h hs
    all_goals exact ⟨_, rfl, .inl rfl⟩
  · exact .inr ⟨nofun, _, congrArg Host.Outcome.next (State.endDecode_of_busy hs .readFailure), .inr (.inl rfl)⟩
  · exact .inr ⟨nofun, _, congrArg Host.Outcome.next (State.endDecode_of_busy hs .readTimeout), .inr (.inr rfl)⟩

end

/-- Settles O34: a symbol that is no byte ends the decode, and a byte moves it as its state says. -/
theorem decoderFieldsGoInOrder : Obligations.DecoderFieldsGoInOrder := by
  unfold Obligations.DecoderFieldsGoInOrder
  intro i s t hi h hb
  have busy := (State.decBusy_eq_true s).1 hb
  rcases symbol_cases hi busy with ⟨b, rfl⟩ | ⟨_, c, e, _⟩
  · rw [show exec (.rxByte b) s = execRxByte b s from rfl] at h
    rcases execRxByte_cases b s with ⟨hs, e⟩ | ⟨hs, _, e⟩ | ⟨_, _, e⟩ | ⟨hs, e⟩ | ⟨hs, e⟩ | ⟨_, _, e⟩ | ⟨hs, _, e⟩ |
      ⟨hs, _, e⟩ | ⟨_, _, e⟩ | ⟨_, _, e⟩ | ⟨_, _, e⟩ | ⟨_, _, _, e⟩ <;> rw [e] at h <;> cases h
    -- an idle decoder
    · exact absurd hs busy
    -- D_HDR
    · exact .inr (.inl ⟨hs, rfl⟩)
    · exact .inl rfl
    -- D_LENHI
    · exact .inr (.inr (.inl ⟨hs, rfl⟩))
    -- D_LENLO
    · by_cases hl : lengthOf s.dec.lenhi b = 0
      · exact .inr (.inr (.inr (.inr (.inl ⟨hs, hl, if_pos hl⟩))))
      · exact .inr (.inr (.inr (.inl ⟨hs, hl, if_neg hl⟩)))
    -- D_PAY
    · by_cases hl : s.dec.idx + 1 = s.dec.len
      · exact .inr (.inr (.inr (.inr (.inr (.inr (.inl ⟨hs, hl, if_pos hl⟩))))))
      · exact .inr (.inr (.inr (.inr (.inr (.inl ⟨hs, rfl, hl, if_neg hl⟩)))))
    -- D_TRL
    · exact .inr (.inr (.inr (.inr (.inr (.inr (.inr ⟨hs, rfl⟩))))))
    · exact .inl rfl
    -- D_CHK
    · exact .inl rfl
    · exact .inl rfl
  · rw [e] at h
    cases h; exact .inl rfl

/-- Settles O35: DECODE expects START, so the next byte ends it and is the one byte counted. -/
theorem wrongFirstByteEndsTheDecode : Obligations.WrongFirstByteEndsTheDecode := by
  unfold Obligations.WrongFirstByteEndsTheDecode
  intro b s hb hne
  have started : exec .decode s = .next s.startDecode := if_neg (by simp [hb])
  have ended := exec_rxByte_dHdr (s := s.startDecode) rfl b
  rw [if_neg hne] at ended
  refine ⟨_, (execAll_cons started _).trans (execAll_cons ended _), ?_, ?_, ?_, fun _ => rfl⟩
  · show statusWord false true .malformedHeader = 0x12; rfl
  · show (0 + 1 : Count).setWidth 32 = 1; rfl
  · show flagWord false <<< 16 ||| (0 : Half).setWidth 32 = 0; rfl

/-! ## What ends a wait, and what it leaves recorded -/

section
variable {i : Instr} {s t : State}

/-- A host event starts an idle decoder at most, and a response leaves the decoder (41 R83, 70 R139). -/
theorem symbol_or_reset_of_dec_ne (hb : s.decBusy = true) (h : exec i s = .next t) (hne : t.dec ≠ s.dec) :
    i.IsSymbol ∨ i = .reset := by
  rcases exec_kinds h with hi | hi | hi | hk
  · exact .inl hi
  · exact absurd (by rw [response_keeps hi h]) hne
  · exact .inr hi
  · rcases hk.dec with e | ⟨_, idle, _⟩
    · exact absurd e hne
    · exact absurd (hb.symm.trans idle) nofun

/-- A host event starts an idle encoder at most, and a symbol leaves the encoder (42 R96, 70 R139). -/
theorem response_or_reset_of_enc_ne (hb : s.encBusy = true) (h : exec i s = .next t) (hne : t.enc ≠ s.enc) :
    i.IsResponse ∨ i = .reset := by
  rcases exec_kinds h with hi | hi | hi | hk
  · exact absurd (by rw [symbol_keeps hi h]) hne
  · exact .inl hi
  · exact .inr hi
  · rcases hk.enc with e | ⟨_, idle, _⟩
    · exact absurd e hne
    · exact absurd (hb.symm.trans idle) nofun

end

/-- Settles O51, per unit. -/
theorem onlyTheEnvironmentEndsAWait : Obligations.OnlyTheEnvironmentEndsAWait := by
  unfold Obligations.OnlyTheEnvironmentEndsAWait
  exact ⟨fun _ _ _ => symbol_or_reset_of_dec_ne, fun _ _ _ => response_or_reset_of_enc_ne⟩

/-- How many bytes are counted after an event, of `n` before it (41 R86). -/
def countAfter (n : Nat) : Instr → Nat
  | .rxByte _ => n + 1
  | _ => n

section
variable {i : Instr} {s t : State}

theorem countAfter_add (n m : Nat) (i : Instr) : countAfter (n + m) i = countAfter n i + m := by
  cases i
  case rxByte b => exact Nat.add_right_comm n m 1
  all_goals rfl

theorem countAfter_of_no_byte (n : Nat) (hi : ∀ b, i ≠ .rxByte b) : countAfter n i = n := by
  cases i
  case rxByte b => exact absurd rfl (hi b)
  all_goals rfl

/-- What the symbol that ends a decode leaves beside the record of its code: how much it has counted, the step that a
code names, and OBUF where the CHECK byte is refused (41 R86 to R90). -/
structure FinishedBy (i : Instr) (s t : State) : Prop where
  count : t.dec.count.toNat = countAfter s.dec.count.toNat i
  len : t.dec.len = s.dec.len
  header : t.dec.code = .malformedHeader → s.dec.state = .dHdr
  trailer : t.dec.code = .malformedTrailer → s.dec.state = .dTrl
  read : t.dec.code = .readFailure ∨ t.dec.code = .readTimeout → t.dec.count = s.dec.count
  mismatch : t.dec.code = .checksumMismatch → t.obuf = s.obuf

theorem exhaustedCode_eq_some {d : DState} {c : StatusCode} (h : exhaustedCode d = some c) :
    (c = .malformedHeader → d = .dHdr) ∧ (c = .malformedTrailer → d = .dTrl) ∧ c ≠ .checksumMismatch := by
  cases d <;> cases h <;> decide

/-- A decode ends by a byte in D_HDR, D_TRL or D_CHK, or by a symbol that is no byte. -/
theorem Decoder.Position.finishedBy (hp : s.dec.Position) (hi : i.IsSymbol) (hs : s.dec.state ≠ .dIdle)
    (hn : s.dec.done = false) (h : exec i s = .next t) (hd : t.dec.done = true) : FinishedBy i s t := by
  rcases symbol_cases hi hs with ⟨b, rfl⟩ | ⟨hb, c, e, hc⟩
  · have succ := hp.count_succ hs
    have busy (hu : t.dec.done = s.dec.done) : False := absurd (hd.symm.trans (hu.trans hn)) nofun
    rw [show exec (.rxByte b) s = execRxByte b s from rfl] at h
    rcases execRxByte_cases b s with ⟨hs', e⟩ | ⟨_, _, e⟩ | ⟨hs', _, e⟩ | ⟨_, e⟩ | ⟨_, e⟩ | ⟨_, _, e⟩ | ⟨_, _, e⟩ |
      ⟨_, _, e⟩ | ⟨hs', _, e⟩ | ⟨hs', _, e⟩ | ⟨_, _, e⟩ | ⟨hs', _, _, e⟩ <;> rw [e] at h <;> cases h
    -- a busy decoder stays busy
    any_goals exact (busy rfl).elim
    -- D_HDR
    · exact ⟨succ, rfl, fun _ => hs', nofun, nofun, nofun⟩
    -- D_TRL
    · exact ⟨succ, rfl, nofun, fun _ => hs', nofun, nofun⟩
    -- D_CHK, the policy refuses
    · exact ⟨succ, rfl, nofun, nofun, nofun, fun _ => rfl⟩
    -- D_CHK, the policy accepts
    · refine ⟨succ, rfl, ?_, ?_, ?_, ?_⟩ <;> dsimp only <;> split_ifs <;> nofun
  · rw [e] at h
    cases h
    have count : s.dec.count.toNat = countAfter s.dec.count.toNat i := (countAfter_of_no_byte _ hb).symm
    rcases hc with hc | rfl | rfl
    · obtain ⟨header, trailer, mismatch⟩ := exhaustedCode_eq_some hc
      exact ⟨count, rfl, header, trailer, fun _ => rfl, fun hm => absurd hm mismatch⟩
    · exact ⟨count, rfl, nofun, nofun, fun _ => rfl, nofun⟩
    · exact ⟨count, rfl, nofun, nofun, fun _ => rfl, nofun⟩

/-- The record of a code, read off the code. -/
theorem Decoder.Recorded.of_code {p : Params} {d : Decoder} (h : d.Recorded p) {c : StatusCode} (hc : d.code = c) :
    Decoder.Recorded p { d with code := c } := hc ▸ h

theorem Encoder.Recorded.of_code {e : Encoder} (h : e.Recorded) {c : StatusCode} (hc : e.code = c) :
    Encoder.Recorded { e with code := c } := hc ▸ h

/-- A failed encode is short of its frame, and its code is a response's (42 R100 to R102). -/
theorem Encoder.Recorded.failed {e : Encoder} (h : e.Recorded) (hf : e.code ≠ .ok) :
    e.count.toNat < 5 + e.len.toNat ∧ (e.code = .incompleteWrite ∨ e.code = .writeFailure ∨ e.code = .writeTimeout) := by
  cases hc : e.code
  case ok => exact absurd hc hf
  case incompleteWrite => exact ⟨h.of_code hc, .inl rfl⟩
  case writeFailure => exact ⟨h.of_code hc, .inr (.inl rfl)⟩
  case writeTimeout => exact ⟨h.of_code hc, .inr (.inr rfl)⟩
  all_goals exact (h.of_code hc).elim

/-- An acceptance leaves no code but OK. -/
theorem State.acceptByte_code (hs : s.enc.state ≠ .eIdle) (hc : s.enc.code = .ok) (b : Byte) :
    (s.acceptByte b).enc.code = .ok := by
  by_cases last : s.enc.state = .eChk
  · exact congrArg Encoder.code (Encoder.advance_eChk (e := { s.enc with count := s.enc.count + 1 }) last)
  · exact (Encoder.advance_busy (e := { s.enc with count := s.enc.count + 1 }) hs last).2.2.trans hc

/-- The response that fails an encode writes no byte (42 R100 to R102). -/
theorem response_failed_count (hi : i.IsResponse) (hs : s.enc.state ≠ .eIdle) (hok : s.enc.code = .ok)
    (h : exec i s = .next t) (hf : t.enc.code ≠ .ok) : t.enc.count = s.enc.count := by
  rcases hi with rfl | rfl | rfl | rfl
  · rw [show exec .txAccept s = execTxAccept s from rfl] at h
    rcases execTxAccept_cases s with ⟨_, e⟩ | ⟨_, _, _, _, _, e⟩ | ⟨b, _, _, _, e⟩ <;> rw [e] at h <;> cases h
    · rfl
    · exact absurd (State.acceptByte_code hs hok b) hf
  all_goals cases h; rw [State.endEncode]; split_ifs <;> rfl

end

/-- Settles O53: the record of a finished unit holds by the invariant, and the rest is what its last symbol or response
leaves. -/
theorem finishingEventRecordsTheOutcome : Obligations.FinishingEventRecordsTheOutcome := by
  unfold Obligations.FinishingEventRecordsTheOutcome
  intro i s t hinv h
  have inv := exec_inv hinv h
  constructor
  · intro hb hd
    have busy := (State.decBusy_eq_true s).1 hb
    have running := hinv.decoder.busy_not_done hb
    have hi : i.IsSymbol := by
      rcases symbol_or_reset_of_dec_ne hb h (fun e => by simp [e, running] at hd) with hi | rfl
      · exact hi
      · cases h; cases hd
    have pos := hinv.decoder.position
    have fin := pos.finishedBy hi busy running h hd
    have record := inv.decoder.recorded hd
    have count := fin.count
    rw [Decoder.Position] at pos
    refine ⟨fun hc => ?_, fun hc => ?_, fun hc => ?_, fun hc => ?_, fun hc => ?_, fun hc => ?_, fun hc => ?_,
      fun hc => fin.read (.inl hc), fun hc => fin.read (.inr hc), fun hc => ?_, record.of_code, record.of_code,
      record.of_code⟩
    -- OK
    · obtain ⟨hn, hcap, hl, -⟩ := record.of_code hc
      exact ⟨hn, hl, hcap⟩
    -- MalformedHeader
    · rw [fin.header hc] at pos
      rw [pos.1] at count
      exact count
    -- MalformedLength
    · obtain ⟨h1, h2, hl, -⟩ := record.of_code hc
      exact ⟨hl, by dsimp only at h1 h2; omega⟩
    -- MalformedPayload
    · obtain ⟨hn, hi, hl, -⟩ := record.of_code hc
      exact ⟨hl, hn, hi⟩
    -- MalformedTrailer
    · obtain ⟨-, -, hl, -⟩ := record.of_code hc
      rw [fin.trailer hc] at pos
      rw [pos.1, countAfter_add, ← fin.len] at count
      exact ⟨hl, count⟩
    -- MissingChecksum
    · obtain ⟨hn, -, hk⟩ := record.of_code hc
      exact ⟨hk, hn⟩
    -- BufferTooSmall
    · obtain ⟨hn, hcap, -⟩ := record.of_code hc
      exact ⟨hcap, hn⟩
    -- ChecksumMismatch
    · obtain ⟨-, -, hk, hp⟩ := record.of_code hc
      exact ⟨hp, hk, obufByte_congr (fin.mismatch hc) (by rw [symbol_keeps hi h])⟩
  · intro hb hd
    have busy := (State.encBusy_eq_true s).1 hb
    have running := hinv.encoder.busy_not_done hb
    have hi : i.IsResponse := by
      rcases response_or_reset_of_enc_ne hb h (fun e => by simp [e, running] at hd) with hi | rfl
      · exact hi
      · cases h; cases hd
    have record := inv.encoder.recorded hd
    refine ⟨record.of_code, fun hf => ?_, ?_⟩
    · exact ⟨response_failed_count hi busy (hinv.encoder.code_until_done running) h hf, (record.failed hf).1⟩
    · by_cases hok : t.enc.code = .ok
      · exact .inl hok
      · exact .inr (record.failed hok).2

/-! ## A whole frame -/

/-- A decoder with this capacity has taken the header of the payload's frame, and the first `k` bytes of the payload
(41 R84, R86). -/
structure PayloadTaken (p : Params) (cap : Half) (payload : List Byte) (k : Nat) (s : State) : Prop where
  params : s.params = p
  cap : s.dec.cap = cap
  len : s.dec.len.toNat = payload.length
  idx : s.dec.idx.toNat = k
  state : s.dec.state = if k = payload.length then .dTrl else .dPay
  bytes : ∀ i (h : i < payload.length), i < k → s.pbufByte i = payload[i]

section
variable {p : Params} {cap : Half} {payload : List Byte} {s : State}

/-- START and the two bytes of LENGTH (41 R84, steps 1 and 2). -/
theorem payloadTaken_of_header (hs : s.dec.state = .dHdr) {len : Half} (hl : len.toNat = payload.length) :
    ∃ t, execAll [.rxByte 0x02, .rxByte (lenHi len), .rxByte (lenLo len)] s = .next t ∧
      PayloadTaken s.params s.dec.cap payload 0 t := by
  have e1 := exec_rxByte_dHdr hs 0x02
  rw [if_pos rfl] at e1
  refine ⟨_, (execAll_cons e1 _).trans ((execAll_cons (exec_rxByte_dLenhi rfl _) _).trans
    (execAll_cons (exec_rxByte_dLenlo rfl _) _)), rfl, rfl, ?_, rfl, ?_, fun _ _ h => absurd h (Nat.not_lt_zero _)⟩
  · exact (congrArg BitVec.toNat (lengthOf_lenHi_lenLo len)).trans hl
  · have empty : lengthOf (lenHi len) (lenLo len) = 0 ↔ 0 = payload.length := by
      rw [lengthOf_lenHi_lenLo, ← BitVec.toNat_inj, hl]; exact eq_comm
    exact if_congr empty rfl rfl

/-- The next payload byte goes to its place in PBUF (41 R84, step 3). -/
theorem PayloadTaken.next {k : Nat} (h : PayloadTaken p cap payload k s) (hk : k < payload.length) :
    ∃ t, exec (.rxByte payload[k]) s = .next t ∧ PayloadTaken p cap payload (k + 1) t := by
  obtain ⟨hp, hc, hl, hi, hs, hb⟩ := h
  rw [if_neg hk.ne] at hs
  have inside : s.dec.idx.toNat < pbufSize := by
    have bound := s.dec.len.isLt
    rw [pbufSize]; omega
  have succ : (s.dec.idx + 1).toNat = k + 1 := by rw [idx_succ_toNat (n := s.dec.len) (by omega), hi]
  refine ⟨_, exec_rxByte_dPay hs inside _, hp, hc, hl, succ, ?_, fun i hi' hik => ?_⟩
  · have whole : s.dec.idx + 1 = s.dec.len ↔ k + 1 = payload.length := by rw [← BitVec.toNat_inj, succ, hl]
    exact if_congr whole rfl rfl
  · refine (s.storePbuf_pbufByte _ _ i).trans ?_
    rw [hi]
    split_ifs with heq
    · subst heq; rfl
    · exact hb i hi' (by omega)

theorem PayloadTaken.take (h : PayloadTaken p cap payload 0 s) :
    ∀ k, k ≤ payload.length →
      ∃ t, execAll ((payload.take k).map .rxByte) s = .next t ∧ PayloadTaken p cap payload k t
  | 0, _ => ⟨s, rfl, h⟩
  | k + 1, hk => by
    obtain ⟨t, ht, taken⟩ := h.take k (Nat.le_of_succ_le hk)
    obtain ⟨u, hu, taken'⟩ := taken.next hk
    refine ⟨u, ?_, taken'⟩
    rw [← List.take_append_getElem hk, List.map_append, execAll_append ht]
    exact execAll_cons hu []

theorem PayloadTaken.pbufBytes (h : PayloadTaken p cap payload payload.length s) :
    s.pbufBytes s.dec.len.toNat = payload := by
  have hn := s.pbufBytes_length s.dec.len.toNat
  refine List.ext_getElem (hn.trans h.len) fun i _ hi => ?_
  rw [← h.bytes i hi hi]
  simp [State.pbufBytes_eq_map]

/-- END and the CHECK byte that the policy generates: the payload, which fits the capacity, is copied, and the decode
finishes OK (41 R84, steps 4 to 6; 43 R110). -/
theorem PayloadTaken.finish (h : PayloadTaken p cap payload payload.length s) (hc : payload.length ≤ cap.toNat)
    (ho : cap.toNat ≤ p.obufSize.toNat) :
    ∃ t, execAll [.rxByte 0x03, .rxByte (chkGen p payload)] s = .next t ∧ t.dec.state = .dIdle ∧ t.dec.done = true ∧
      t.dec.code = .ok ∧ t.dec.len = s.dec.len ∧ ∀ i (hi : i < payload.length), t.obufByte i = payload[i] := by
  have bytes := h.pbufBytes
  obtain ⟨rfl, rfl, hl, -, hs, hb⟩ := h
  have e1 := exec_rxByte_dTrl (hs.trans (if_pos rfl)) 0x03
  rw [if_pos rfl] at e1
  have accepted : chkAccept s.params (s.pbufBytes s.dec.len.toNat) (chkGen s.params payload) = true := by
    rw [bytes]; exact chkAccept_chkGen s.params payload
  have fits : ¬ s.dec.cap.toNat < s.dec.len.toNat := by omega
  have e2 := exec_rxByte_dChk_accepted (s := { s with dec := { s.dec with count := s.dec.count + 1, state := .dChk } })
    rfl accepted ho
  refine ⟨_, (execAll_cons e1 _).trans (execAll_cons e2 _), rfl, rfl, if_neg fits, rfl, fun i hi => ?_⟩
  have copied : i < s.copyLength := by rw [State.copyLength]; omega
  exact (s.copyToObuf_obufByte s.copyLength i).trans ((if_pos copied).trans (hb i hi hi))

end

section
variable {s t : State}

/-- DECODE starts a decoder that meets the invariant whatever it was before, if DEC_CAP is legal (41 R85). -/
theorem decoderInv_startDecode (hc : s.decCap.toNat ≤ s.params.obufSize.toNat) : DecoderInv s.startDecode :=
  .of_busy hc hc rfl rfl (fun _ => rfl) (fun _ => rfl) ⟨nofun, rfl, rfl, rfl⟩ fun _ hi => absurd hi (Nat.not_lt_zero _)

theorem DecoderInv.execAll_bytes {bs : List Byte} (h : DecoderInv s) (he : execAll (bs.map .rxByte) s = .next t) :
    DecoderInv t := by
  induction bs generalizing s with
  | nil => cases he; exact h
  | cons b bs ih =>
    rw [List.map_cons, execAll] at he
    split at he
    case h_1 u hu => exact ih (h.execRxByte hu) he
    all_goals cases he

/-- The symbols of a frame: the header, the payload, END and CHECK (30 R56). -/
theorem frame_map_rxByte (p : Params) {payload : List Byte} {len : Half} (hl : len.toNat = payload.length) :
    (frame p payload).map Instr.rxByte =
      [.rxByte 0x02, .rxByte (lenHi len), .rxByte (lenLo len)] ++
        (payload.map .rxByte ++ [.rxByte 0x03, .rxByte (chkGen p payload)]) := by
  simp [frame, lenHi_eq, lenLo_eq, hl]

end

/-- Settles O38: DECODE, then the header, the payload byte by byte, and the end of the frame; the count and LEN_VALID
are those of a decode that has finished OK under the invariant. -/
theorem frameDecodesToItsPayload : Obligations.FrameDecodesToItsPayload := by
  unfold Obligations.FrameDecodesToItsPayload
  intro payload s hlen hb hcap hlegal
  have hl : (BitVec.ofNat 16 payload.length).toNat = payload.length := by
    rw [BitVec.toNat_ofNat]; omega
  have started : exec .decode s = .next s.startDecode := if_neg (by simp [hb])
  obtain ⟨t, ht, header⟩ := payloadTaken_of_header (s := s.startDecode) rfl hl
  obtain ⟨u, hu, taken⟩ := header.take payload.length le_rfl
  obtain ⟨v, hv, hidle, hdone, hcode, hvlen, hbytes⟩ := taken.finish hcap hlegal
  have run : execAll ((frame s.params payload).map .rxByte) s.startDecode = .next v := by
    rw [List.take_length] at hu
    rw [frame_map_rxByte s.params hl, execAll_append ht, execAll_append hu]
    exact hv
  have inv := (decoderInv_startDecode hlegal).execAll_bytes run
  obtain ⟨hn, -, hvalid, -⟩ := (inv.recorded hdone).of_code hcode
  have len : v.dec.len.toNat = payload.length := (congrArg BitVec.toNat hvlen).trans taken.len
  refine ⟨v, (execAll_cons started _).trans run, ?_, hvalid, len, len ▸ hn, hbytes⟩
  calc v.csrRead 5
    _ = statusWord v.decBusy v.dec.done v.dec.code := rfl
    _ = 2 := by rw [(State.decBusy_eq_false v).2 hidle, hdone, hcode]; rfl

end Sys2Proof.Machine
end

section
/-! Obligations of 42_encoder.md. What one response does in each state of a busy encoder is said once; the obligations
about whole encodes follow from a relation between the state of the issue and each later state of that encode. -/

namespace Sys2Proof.Machine

/-! ## One response, per state of a busy encoder -/

section
variable {s : State}

theorem State.emit_of_eIdle (h : s.enc.state = .eIdle) : s.emit = none := by
  simp only [State.emit, h]

theorem State.emit_of_eStart (h : s.enc.state = .eStart) : s.emit = some startByte := by
  simp only [State.emit, h]

theorem State.emit_of_ePay (h : s.enc.state = .ePay) : s.emit = some (s.ebufByte s.enc.idx.toNat) := by
  simp only [State.emit, h]

theorem State.emit_of_eEnd (h : s.enc.state = .eEnd) : s.emit = some endByte := by
  simp only [State.emit, h]

theorem State.emit_of_eChk (h : s.enc.state = .eChk) : s.emit = some s.enc.chk := by
  simp only [State.emit, h]

/-- The offered byte, if its place exists in EBUF, goes to the wire and is counted, and the encoder moves on (42 R99). -/
theorem exec_txAccept_of_emit {b : Byte} {e : Encoder} (hb : s.emit = some b)
    (hi : s.enc.state = .ePay → s.enc.idx.toNat < ebufSize) (he : { s.enc with count := s.enc.count + 1 }.advance = e) :
    exec .txAccept s = .next { s with enc := e, env := { s.env with wire := s.env.wire ++ [b] } } := by
  rw [show exec .txAccept s = execTxAccept s from rfl, ← he]
  simp only [execTxAccept, hb]
  exact if_neg fun ⟨hs, past⟩ => past (hi hs)

/-- A busy encoder is ended by a response that ends every encode (42 R100 to R102). -/
theorem State.endEncode_of_busy (h : s.enc.state ≠ .eIdle) (c : StatusCode) : s.endEncode c = s.encFinish c :=
  if_pos ((State.encBusy_eq_true s).2 h)

end

/-- Settles O40: per state, the offered byte and the field that comes after it. -/
theorem acceptedByteAdvancesTheEncoder : Obligations.AcceptedByteAdvancesTheEncoder := by
  unfold Obligations.AcceptedByteAdvancesTheEncoder
  refine fun s => ⟨fun h => ?_, fun h => ?_, fun h => ?_, fun h hi => ?_, fun h => ?_, fun h => ?_⟩
  · exact exec_txAccept_of_emit (State.emit_of_eStart h) (by simp [h]) (by simp [Encoder.advance, h])
  · rw [← lenHi_eq]
    exact exec_txAccept_of_emit (State.emit_of_eLenhi h) (by simp [h]) (by simp [Encoder.advance, h])
  · rw [← lenLo_eq]
    exact exec_txAccept_of_emit (State.emit_of_eLenlo h) (by simp [h]) (by simp [Encoder.advance, h])
  · exact exec_txAccept_of_emit (State.emit_of_ePay h) (fun _ => hi) (by simp [Encoder.advance, h])
  · exact exec_txAccept_of_emit (State.emit_of_eEnd h) (by simp [h]) (by simp [Encoder.advance, h])
  · exact exec_txAccept_of_emit (State.emit_of_eChk h) (by simp [h]) (by simp [Encoder.advance, h])

/-- Settles O41: the three responses end a busy encode without a look at its state. -/
theorem failedResponseEndsTheEncode : Obligations.FailedResponseEndsTheEncode := by
  unfold Obligations.FailedResponseEndsTheEncode
  exact fun s hs => ⟨congrArg Host.Outcome.next (State.endEncode_of_busy hs .incompleteWrite),
    congrArg Host.Outcome.next (State.endEncode_of_busy hs .writeFailure),
    congrArg Host.Outcome.next (State.endEncode_of_busy hs .writeTimeout)⟩

theorem exec_encode_of_idle {s : State} (h : s.enc.state = .eIdle) : exec .encode s = .next s.startEncode :=
  if_neg (by simpa using h)

theorem exec_encode_of_busy {s : State} (h : s.enc.state ≠ .eIdle) : exec .encode s = .next (s.setErr .encBusyCmd) :=
  if_pos ((State.encBusy_eq_true s).2 h)

/-- Settles O39, by the busy check of the command. -/
theorem encodeStartsOrIsDropped : Obligations.EncodeStartsOrIsDropped := by
  unfold Obligations.EncodeStartsOrIsDropped
  exact fun s => ⟨exec_encode_of_busy, exec_encode_of_idle⟩

/-- Settles O42: the table of offered bytes, and for a busy encoder the position that the invariant keeps. -/
theorem offeredByteIsTheFrameByte : Obligations.OfferedByteIsTheFrameByte := by
  unfold Obligations.OfferedByteIsTheFrameByte
  refine fun s => ⟨State.emit_of_eIdle, State.emit_of_eStart, fun h => ?_, fun h => ?_, State.emit_of_ePay,
    State.emit_of_eEnd, State.emit_of_eChk, fun inv hb => ⟨?_, inv.encoder.emit_eq hb⟩⟩
  · rw [State.emit_of_eLenhi h, lenHi_eq]
  · rw [State.emit_of_eLenlo h, lenLo_eq]
  · exact inv.encoder.position.count_lt ((State.encBusy_eq_true s).1 hb)

/-! ## What the encoder's events leave -/

/-- A dropped ENCODE leaves every flag but its own (10 R25). -/
theorem State.setErr_encBusyCmd_others (s : State) : (s.setErr .encBusyCmd).errf &&& 0b11110 = s.errf &&& 0b11110 := by
  have others (e : BitVec 5) : (e ||| ErrBit.encBusyCmd.mask) &&& 0b11110 = e &&& 0b11110 := by
    revert e; decide
  exact others s.errf

/-- A response that writes no byte leaves the environment (42 R100 to R102). -/
theorem response_env {i : Instr} {s t : State} (hi : i.IsResponse) (ha : i ≠ .txAccept) (h : exec i s = .next t) :
    t.env = s.env := by
  have ended (c : StatusCode) : (s.endEncode c).env = s.env := by
    rw [State.endEncode]; split_ifs <;> rfl
  rcases hi with rfl | rfl | rfl | rfl
  · exact absurd rfl ha
  all_goals cases h; exact ended _

/-- Settles O43: a dropped ENCODE, an ENCODE that starts, and the responses. -/
theorem encoderEventFrame : Obligations.EncoderEventFrame := by
  unfold Obligations.EncoderEventFrame
  intro i s t hi h
  rcases hi with rfl | hi
  · by_cases hs : s.enc.state = .eIdle
    · rw [exec_encode_of_idle hs] at h
      cases h
      exact ⟨rfl, rfl, rfl, rfl, rfl, rfl, fun _ => rfl, fun _ => rfl, rfl, fun _ => ⟨rfl, rfl, rfl⟩⟩
    · rw [exec_encode_of_busy hs] at h
      cases h
      exact ⟨rfl, rfl, rfl, rfl, rfl, rfl, fun _ => rfl, fun hn => absurd ⟨rfl, (State.encBusy_eq_true s).2 hs⟩ hn,
        s.setErr_encBusyCmd_others, fun _ => ⟨rfl, rfl, rfl⟩⟩
  · have env := response_env hi (h := h)
    rw [response_keeps hi h]
    refine ⟨rfl, rfl, rfl, rfl, rfl, rfl, fun ha => ?_, fun _ => rfl, rfl, fun _ => ⟨rfl, rfl, rfl⟩⟩
    rw [env ha]

/-! ## A whole encode -/

/-- An ENCODE issued in `o` has been carried on to `s`: the encoder is busy with it or has finished it, with the frame of
ENC_LEN and EBUF as `o` holds them, and the sink has the first ENC_COUNT bytes of that frame (42 R103, R104). -/
structure EncodeOf (o s : State) : Prop where
  inv : EncoderInv s
  issued : s.encBusy = true ∨ s.enc.done = true
  len : s.enc.len = o.encLen
  frame : s.encBusy = true → s.encFrame = o.startEncode.encFrame
  wire : s.env.wire = o.env.wire ++ o.startEncode.encFrame.take s.enc.count.toNat

section
variable {i : Instr} {o s t : State}

theorem encodeOf_startEncode (o : State) : EncodeOf o o.startEncode where
  inv := .startEncode o
  issued := .inl rfl
  len := rfl
  frame _ := rfl
  wire := (List.append_nil _).symm

/-- The frame written out (30 R56). -/
theorem State.startEncode_encFrame (o : State) :
    o.startEncode.encFrame =
      [0x02, BitVec.ofNat 8 (o.encLen.toNat / 256), BitVec.ofNat 8 (o.encLen.toNat % 256)] ++
        (List.range o.encLen.toNat).map o.ebufByte ++
        [0x03, chkGen o.params ((List.range o.encLen.toNat).map o.ebufByte)] := by
  have bytes : o.ebufBytes o.encLen.toNat = (List.range o.encLen.toNat).map o.ebufByte := rfl
  simp [State.encFrame, frame, bytes]

theorem State.startEncode_encFrame_length (o : State) : o.startEncode.encFrame.length = 5 + o.encLen.toNat := by
  simp [State.encFrame]

theorem State.encFrame_congr (he : t.enc = s.enc) (hp : t.params = s.params) (hb : ∀ a, t.ebufByte a = s.ebufByte a) :
    t.encFrame = s.encFrame := by
  have bytes (n : Nat) : t.ebufBytes n = s.ebufBytes n := firstBytes_congr fun a _ => hb a
  rw [State.encFrame, State.encFrame, he, hp, bytes]

/-- What is neither RESET, nor ENCODE, nor a response leaves the encoder and the wire (42 R96, 70 R139). -/
theorem exec_keeps_enc_wire (hr : i ≠ .reset) (he : ¬ i.IsEncode) (hi : ¬ i.IsResponse) (h : exec i s = .next t) :
    t.enc = s.enc ∧ t.env.wire = s.env.wire := by
  rcases exec_kinds h with hi' | hi' | hi' | hk
  · rw [symbol_keeps hi' h]; exact ⟨rfl, rfl⟩
  · exact absurd hi' hi
  · exact absurd hi' hr
  · obtain ⟨r, henv⟩ := hk.env
    exact ⟨hk.enc.resolve_right fun c => he c.1, by rw [henv]⟩

/-- EBUF is fixed while the encoder is busy, so another event changes nothing that the encode reads (20 R54). -/
theorem EncodeOf.other (h : EncodeOf o s) (hr : i ≠ .reset) (he : ¬ i.IsEncode) (hi : ¬ i.IsResponse)
    (hx : exec i s = .next t) : EncodeOf o t := by
  obtain ⟨henc, hw⟩ := exec_keeps_enc_wire hr he hi hx
  have hp := exec_params hx
  have fixed (hb : s.encBusy = true) := ebufIsFixedWhileEncoding i s t hb hr hx
  have busy : t.encBusy = s.encBusy := by rw [State.encBusy, henc]; rfl
  exact {
    inv := h.inv.congr hp henc fixed fun _ => hw
    issued := by rw [busy, henc]; exact h.issued
    len := by rw [henc]; exact h.len
    frame := fun hb => by
      rw [busy] at hb
      rw [State.encFrame_congr henc hp (fixed hb)]; exact h.frame hb
    wire := by rw [henc, hw]; exact h.wire }

/-- The accepted byte is the next one of the frame (42 R97, R99). -/
theorem EncodeOf.acceptByte (h : EncodeOf o s) (hb : s.encBusy = true) {b : Byte} (he : s.emit = some b) :
    EncodeOf o (s.acceptByte b) := by
  have hs := (State.encBusy_eq_true s).1 hb
  have hf : (s.acceptByte b).encFrame = s.encFrame := by simp [State.encFrame]
  have hcount : (s.acceptByte b).enc.count = s.enc.count + 1 := Encoder.advance_count _
  refine ⟨h.inv.acceptByte hb he, ?_, (Encoder.advance_len _).trans h.len, fun _ => hf.trans (h.frame hb), ?_⟩
  · by_cases last : s.enc.state = .eChk
    · exact .inr (congrArg Encoder.done (Encoder.advance_eChk (e := { s.enc with count := s.enc.count + 1 }) last))
    · obtain ⟨hs', -⟩ := Encoder.advance_busy (e := { s.enc with count := s.enc.count + 1 }) hs last
      exact .inl ((State.encBusy_eq_true _).2 hs')
  · have next : o.startEncode.encFrame[s.enc.count.toNat]? = some b := by
      rw [← h.frame hb, ← h.inv.emit_eq hb, he]
    rw [hcount, h.inv.position.count_succ hs, List.take_add_one, next, ← List.append_assoc, ← h.wire]
    rfl

/-- A failed response ends the encode and leaves its count and the wire (42 R100 to R102). -/
theorem EncodeOf.endEncode (h : EncodeOf o s) {c : StatusCode}
    (hc : c = .incompleteWrite ∨ c = .writeFailure ∨ c = .writeTimeout) : EncodeOf o (s.endEncode c) := by
  have inv := h.inv.endEncode hc
  rw [State.endEncode] at inv ⊢
  split_ifs at inv ⊢
  · exact ⟨inv, .inr rfl, h.len, nofun, h.wire⟩
  · exact h

theorem EncodeOf.event (h : EncodeOf o s) (hr : i ≠ .reset) (he : ¬ i.IsEncode) (hx : exec i s = .next t) :
    EncodeOf o t := by
  by_cases hi : i.IsResponse
  · rcases hi with rfl | rfl | rfl | rfl
    · rw [show exec .txAccept s = execTxAccept s from rfl] at hx
      rcases execTxAccept_cases s with ⟨_, e⟩ | ⟨_, _, _, _, _, e⟩ | ⟨b, hemit, hb, _, e⟩ <;> rw [e] at hx <;> cases hx
      · exact h
      · exact h.acceptByte hb hemit
    · cases hx; exact h.endEncode (.inl rfl)
    · cases hx; exact h.endEncode (.inr (.inl rfl))
    · cases hx; exact h.endEncode (.inr (.inr rfl))
  · exact h.other hr he hi hx

theorem EncodeOf.events {is : List Instr} (h : EncodeOf o s) (his : ∀ i ∈ is, i ≠ .reset ∧ ¬ i.IsEncode)
    (hx : execAll is s = .next t) : EncodeOf o t := by
  induction is generalizing s with
  | nil => cases hx; exact h
  | cons i is ih =>
    obtain ⟨hi, rest⟩ := List.forall_mem_cons.1 his
    rw [execAll] at hx
    split at hx
    case h_1 u hu => exact ih (h.event hi.1 hi.2 hu) rest hx
    all_goals cases hx

/-- An encode that no response has failed is still busy while bytes of its frame are left. -/
theorem EncodeOf.busy_of_count_lt (h : EncodeOf o s) (hok : s.enc.code = .ok)
    (hn : s.enc.count.toNat < 5 + o.encLen.toNat) : s.encBusy = true := by
  refine h.issued.resolve_right fun hd => ?_
  have whole : s.enc.count.toNat = 5 + s.enc.len.toNat := (h.inv.recorded hd).of_code hok
  rw [h.len] at whole
  exact hn.ne whole

/-- An encode that has sent its whole frame has finished. -/
theorem EncodeOf.finished_of_count (h : EncodeOf o s) (hn : s.enc.count.toNat = 5 + o.encLen.toNat) :
    s.encBusy = false ∧ s.enc.done = true := by
  have idle : s.encBusy ≠ true := fun hb => by
    have less := h.inv.position.count_lt ((State.encBusy_eq_true s).1 hb)
    rw [h.len] at less
    exact less.ne hn
  exact ⟨Bool.eq_false_of_not_eq_true idle, h.issued.resolve_left idle⟩

/-- A busy encode takes one more acceptance, which fails nothing. -/
theorem EncodeOf.next (h : EncodeOf o s) (hb : s.encBusy = true) :
    ∃ t, exec .txAccept s = .next t ∧ EncodeOf o t ∧ t.enc.count.toNat = s.enc.count.toNat + 1 ∧
      t.enc.code = .ok := by
  have hs := (State.encBusy_eq_true s).1 hb
  rcases execTxAccept_cases s with ⟨idle, _⟩ | ⟨_, _, _, pay, past, _⟩ | ⟨b, hemit, _, _, e⟩
  · exact absurd (hb.symm.trans idle) nofun
  · exact absurd past (Nat.not_le_of_lt (h.inv.position.idx_lt_ebufSize pay))
  · refine ⟨_, e, h.acceptByte hb hemit, ?_, ?_⟩
    · exact (congrArg BitVec.toNat (Encoder.advance_count _)).trans (h.inv.position.count_succ hs)
    · exact State.acceptByte_code hs (h.inv.code_until_done (h.inv.busy_not_done hb)) b

/-- As many acceptances as the frame has bytes are all taken, one byte each (42 R99). -/
theorem encodeOf_accept (o : State) :
    ∀ k, k ≤ 5 + o.encLen.toNat →
      ∃ t, execAll (List.replicate k .txAccept) o.startEncode = .next t ∧ EncodeOf o t ∧
        t.enc.count.toNat = k ∧ t.enc.code = .ok
  | 0, _ => ⟨_, rfl, encodeOf_startEncode o, rfl, rfl⟩
  | k + 1, hk => by
    obtain ⟨t, ht, carried, hn, hok⟩ := encodeOf_accept o k (Nat.le_of_succ_le hk)
    have hb := carried.busy_of_count_lt hok (hn.trans_lt hk)
    obtain ⟨u, hu, carried', hn', hok'⟩ := carried.next hb
    refine ⟨u, ?_, carried', by rw [hn', hn], hok'⟩
    rw [List.replicate_succ', execAll_append ht]
    exact execAll_cons hu []

end

/-- Settles O44: the acceptances are all taken, the last of them finishes the encode, and the sink has the whole frame. -/
theorem acceptingSinkReceivesTheFrame : Obligations.AcceptingSinkReceivesTheFrame := by
  unfold Obligations.AcceptingSinkReceivesTheFrame
  intro s hb
  obtain ⟨t, ht, carried, hn, hok⟩ := encodeOf_accept s _ le_rfl
  obtain ⟨hidle, hdone⟩ := carried.finished_of_count hn
  refine ⟨t, (execAll_cons (exec_encode_of_idle ((State.encBusy_eq_false s).1 hb)) _).trans ht, ?_, ?_, hn⟩
  · rw [carried.wire, hn, List.take_of_length_le s.startEncode_encFrame_length.le, s.startEncode_encFrame]
  · calc t.csrRead 2
      _ = statusWord t.encBusy t.enc.done t.enc.code := rfl
      _ = 2 := by rw [hidle, hdone, hok]; rfl

/-- Settles O45: after `k` acceptances the encoder is still busy, and the response that fails it leaves the count and
the wire. -/
theorem failedEncodeLeavesACutOffFrame : Obligations.FailedEncodeLeavesACutOffFrame := by
  unfold Obligations.FailedEncodeLeavesACutOffFrame
  intro s k i hb hk hi
  obtain ⟨t, ht, carried, hn, hok⟩ := encodeOf_accept s k hk.le
  have busy := (State.encBusy_eq_true t).1 (carried.busy_of_count_lt hok (hn.trans_lt hk))
  obtain ⟨zero, fault, timeout⟩ := failedResponseEndsTheEncode t busy
  have failed : exec i t = .next (t.encFinish
      (if i = .txZero then .incompleteWrite else if i = .txFault then .writeFailure else .writeTimeout)) := by
    rcases hi with rfl | rfl | rfl
    · exact zero
    · exact fault
    · exact timeout
  refine ⟨_, (execAll_cons (exec_encode_of_idle ((State.encBusy_eq_false s).1 hb)) _).trans
    ((execAll_append ht _).trans (execAll_cons failed [])), ?_, hn, rfl, rfl, rfl⟩
  exact carried.wire.trans (by rw [hn]; rfl)

/-- Settles O46: every event of the run carries the encode on, and the record of a finished encode tells a whole frame
from a cut-off one. -/
theorem wireCarriesTheFrameOfTheIssue : Obligations.WireCarriesTheFrameOfTheIssue := by
  unfold Obligations.WireCarriesTheFrameOfTheIssue
  intro is s t hb his h
  rw [execAll_cons (exec_encode_of_idle ((State.encBusy_eq_false s).1 hb))] at h
  have carried := (encodeOf_startEncode s).events his h
  refine ⟨carried.wire, carried.len, fun idle => ?_, fun hd => ⟨?_, fun hok => ?_, fun hf => ?_⟩⟩
  · exact carried.issued.resolve_left fun busy => absurd (busy.symm.trans idle) nofun
  · refine Bool.eq_false_of_not_eq_true fun busy => ?_
    exact absurd (hd.symm.trans (carried.inv.busy_not_done busy)) nofun
  · rw [← carried.len]
    exact (carried.inv.recorded hd).of_code hok
  · rw [← carried.len]
    exact (carried.inv.recorded hd).failed hf

end Sys2Proof.Machine
end

section
/-! Obligations of 43_checksum.md. A pair of functions is tabulated at a finite list of payloads and bytes: the table is a
policy that has their values there, and the payloads of at most 65535 bytes are finitely many (log 4). -/

namespace Sys2Proof.Machine

/-! ## The values of one policy -/

/-- PLACEHOLDER generates the constant CHECK_PLACEHOLDER (43 R108). -/
theorem chkGen_placeholder {p : Params} (h : p.policy = .placeholder) (payload : List Byte) :
    chkGen p payload = p.checkPlaceholder := by
  simp [chkGen, h]

theorem chkGen_other {p : Params} {default : Byte} {gen reject : List (List Byte × Byte)}
    (h : p.policy = .other default gen reject) (payload : List Byte) :
    chkGen p payload = tableByte default gen payload := by
  simp [chkGen, h]

/-- A policy given by tables accepts the byte it generates, and else what it does not refuse (43 R110; log 4). -/
theorem chkAccept_other_eq_true {p : Params} {default : Byte} {gen reject : List (List Byte × Byte)}
    (h : p.policy = .other default gen reject) (payload : List Byte) (c : Byte) :
    chkAccept p payload c = true ↔ c = chkGen p payload ∨ (payload, c) ∉ reject := by
  simp [chkAccept, chkGen, h]

/-! ## A pair of functions as a policy -/

section
variable {gen : List Byte → Byte} {accept : List Byte → Byte → Bool} {pairs : List (List Byte × Byte)}

/-- A table of a function's values gives each payload it lists that function's byte. -/
theorem tableByte_map_gen (default : Byte) {payload : List Byte} :
    ∀ {pairs : List (List Byte × Byte)}, payload ∈ pairs.map Prod.fst →
      tableByte default (pairs.map fun x => (x.1, gen x.1)) payload = gen payload
  | [], listed => nomatch listed
  | x :: pairs, listed => by
    rw [List.map_cons, tableByte]
    split
    case isTrue here => rw [here]
    case isFalse elsewhere => exact tableByte_map_gen default ((List.mem_cons.1 listed).resolve_left elsewhere)

/-- The policy with the values of `gen` and `accept` at the listed payloads and bytes (43 R105; log 4). -/
def tabulate (gen : List Byte → Byte) (accept : List Byte → Byte → Bool) (pairs : List (List Byte × Byte)) : Policy :=
  .other 0 (pairs.map fun x => (x.1, gen x.1)) (pairs.filter fun x => !accept x.1 x.2)

theorem chkGen_tabulate {p : Params} (h : p.policy = tabulate gen accept pairs) {payload : List Byte}
    (listed : payload ∈ pairs.map Prod.fst) : chkGen p payload = gen payload :=
  (chkGen_other h payload).trans (tableByte_map_gen 0 listed)

/-- The tabulated policy accepts what `accept` does, where `accept` takes the byte of `gen` (43 R110). -/
theorem chkAccept_tabulate {p : Params} (h : p.policy = tabulate gen accept pairs) {payload : List Byte} {c : Byte}
    (own : accept payload (gen payload) = true) (listed : (payload, c) ∈ pairs) :
    chkAccept p payload c = accept payload c := by
  rw [Bool.eq_iff_iff, chkAccept_other_eq_true h,
    chkGen_tabulate h (List.mem_map_of_mem (f := Prod.fst) listed)]
  have refused : (payload, c) ∉ pairs.filter (fun x => !accept x.1 x.2) ↔ accept payload c = true := by
    simp [listed]
  rw [refused]
  exact ⟨fun taken => taken.elim (fun e => e ▸ own) id, Or.inr⟩

end

/-- The payloads of at most `n` bytes, each with each byte, are finitely many. -/
theorem exists_list_of_payloads (n : Nat) :
    ∃ pairs : List (List Byte × Byte), ∀ payload : List Byte, payload.length ≤ n → ∀ c, (payload, c) ∈ pairs := by
  have : Finite Byte := Finite.of_injective _ BitVec.toFin_injective
  have finite := (List.finite_length_le Byte n).prod (Set.finite_univ (α := Byte))
  exact ⟨finite.toFinset.toList, fun payload short c => by simpa using short⟩

/-! ## The obligations -/

/-- Settles O48, from the values of PLACEHOLDER and from R110 of every policy. -/
theorem policyAcceptsWhatItGenerates : Obligations.PolicyAcceptsWhatItGenerates := by
  unfold Obligations.PolicyAcceptsWhatItGenerates
  exact ⟨rfl, fun p payload c h => ⟨chkGen_placeholder h payload, chkAccept_placeholder h payload c⟩, chkAccept_chkGen⟩

/-- Settles O49: the policy tabulates the two functions at every payload of at most 65535 bytes and every byte. -/
theorem everyPolicyIsSomeInstances : Obligations.EveryPolicyIsSomeInstances := by
  unfold Obligations.EveryPolicyIsSomeInstances
  intro gen accept own
  obtain ⟨pairs, all⟩ := exists_list_of_payloads 65535
  refine ⟨tabulate gen accept pairs, fun p h payload short => ⟨?_, fun c => ?_⟩⟩
  · exact chkGen_tabulate h (List.mem_map_of_mem (f := Prod.fst) (all payload short 0))
  · exact chkAccept_tabulate h (own payload short) (all payload short c)

end Sys2Proof.Machine
end

section
/-! Obligation of 60_exceptions.md: the frame of the decoder's events. The symbols' part is what `symbol_keeps` says, with
the place of the one byte of PBUF that a payload byte changes; OBUF's part is O37. -/

namespace Sys2Proof.Machine

/-- A symbol writes PBUF at `d_idx` only, and only as a byte in D_PAY (41 R86). -/
theorem symbol_pbuf_at_idx {i : Instr} {s t : State} (hi : i.IsSymbol) (h : exec i s = .next t) :
    t.pbuf = s.pbuf ∨ ∃ b, i = .rxByte b ∧ s.dec.state = .dPay ∧ t.pbuf = s.pbuf.write s.dec.idx.toNat b := by
  by_cases hs : s.dec.state = .dIdle
  · rw [symbol_idle hi (by simpa [State.decBusy] using hs)] at h
    cases h; exact .inl rfl
  rcases symbol_cases hi hs with ⟨b, rfl⟩ | ⟨_, c, e, _⟩
  · rw [show exec (.rxByte b) s = execRxByte b s from rfl] at h
    rcases execRxByte_cases b s with ⟨_, e⟩ | ⟨_, _, e⟩ | ⟨_, _, e⟩ | ⟨_, e⟩ | ⟨_, e⟩ | ⟨_, _, e⟩ | ⟨hpay, _, e⟩ |
      ⟨_, _, e⟩ | ⟨_, _, e⟩ | ⟨_, _, e⟩ | ⟨_, _, e⟩ | ⟨_, _, _, e⟩ <;> rw [e] at h <;> cases h
    pick_goal 6
    · exact .inr ⟨b, rfl, hpay, rfl⟩
    all_goals exact .inl rfl
  · rw [e] at h
    cases h; exact .inl rfl

theorem pbufByte_congr {s t : State} (hb : t.pbuf = s.pbuf) (hr : t.resets = s.resets) (a : Nat) :
    t.pbufByte a = s.pbufByte a := by
  rw [State.pbufByte, State.pbufByte, hb, hr]

/-- A byte of PBUF stays over every symbol that does not store at its place. -/
theorem symbol_pbufByte {i : Instr} {s t : State} {a : Nat} (hi : i.IsSymbol) (h : exec i s = .next t)
    (ha : ¬ ∃ b, i = .rxByte b ∧ s.dec.state = .dPay ∧ a = s.dec.idx.toNat) : t.pbufByte a = s.pbufByte a := by
  have hr : t.resets = s.resets := by rw [symbol_keeps hi h]
  rcases symbol_pbuf_at_idx hi h with hb | ⟨b, rfl, hpay, hb⟩
  · exact pbufByte_congr hb hr a
  · have stored := pbufByte_congr (s := s.storePbuf s.dec.idx.toNat b) hb hr a
    rwa [State.storePbuf_pbufByte, if_neg fun e => ha ⟨b, rfl, hpay, e⟩] at stored

/-- A byte of OBUF stays over every symbol but the CHECK byte of a decode that copies it. -/
theorem symbol_obufByte {i : Instr} {s t : State} {a : Nat} (hi : i.IsSymbol) (h : exec i s = .next t)
    (ha : ¬ ∃ b, i = .rxByte b ∧ s.dec.state = .dChk ∧ a < min s.dec.cap.toNat s.dec.len.toNat) :
    t.obufByte a = s.obufByte a := by
  by_contra hne
  rcases obufChangesOnlyAtTheFinalEvent i s t a h hne with rfl | ⟨⟨b, rfl⟩, final⟩
  · simp [Instr.IsSymbol] at hi
  · exact ha ⟨b, rfl, final⟩

/-- A dropped DECODE leaves every flag but its own (10 R25). -/
theorem State.setErr_decBusyCmd_others (s : State) : (s.setErr .decBusyCmd).errf &&& 0b11101 = s.errf &&& 0b11101 := by
  have others (e : BitVec 5) : (e ||| ErrBit.decBusyCmd.mask) &&& 0b11101 = e &&& 0b11101 := by
    revert e; decide
  exact others s.errf

/-- Settles O36: a dropped DECODE, a DECODE that starts, and the symbols. -/
theorem decoderEventFrame : Obligations.DecoderEventFrame := by
  unfold Obligations.DecoderEventFrame
  intro i s t hi h
  rcases hi with rfl | hi
  · obtain ⟨dropped, started⟩ := decodeStartsOrIsDropped s
    by_cases hs : s.dec.state = .dIdle
    · rw [started hs] at h
      cases h
      exact ⟨rfl, rfl, rfl, rfl, rfl, rfl, fun _ => rfl, rfl, fun _ => ⟨rfl, fun _ => rfl, fun _ => rfl⟩⟩
    · rw [dropped hs] at h
      cases h
      exact ⟨rfl, rfl, rfl, rfl, rfl, rfl, fun hn => absurd ⟨rfl, (State.decBusy_eq_true s).2 hs⟩ hn,
        s.setErr_decBusyCmd_others, fun _ => ⟨rfl, fun _ => rfl, fun _ => rfl⟩⟩
  · have pbuf (a) := symbol_pbufByte (a := a) hi h
    have obuf (a) := symbol_obufByte (a := a) hi h
    rw [symbol_keeps hi h] at pbuf obuf ⊢
    exact ⟨rfl, rfl, rfl, rfl, rfl, rfl, fun _ => rfl, rfl, fun a => ⟨rfl, pbuf a, obuf a⟩⟩

end Sys2Proof.Machine
end

section
/-! Obligation of 70_reset_and_hazards.md: the RESET event. A state after RESET is the instance's reset state but for the
environment and the count of RESET events. -/

namespace Sys2Proof.Machine

/-- RESET keeps the parameters and the environment, and nothing else of the state before it (70 R129 to R131). -/
theorem State.afterReset_eq (s : State) :
    s.afterReset = { State.resetOf s.params with resets := s.resets + 1, env := s.env } := rfl

/-- No register shows the environment or the count of RESET events. -/
theorem State.csrRead_with_resets_env (s : State) (n : Nat) (env : Env) (offset : Half) :
    State.csrRead { s with resets := n, env := env } offset = s.csrRead offset := by
  rw [State.csrRead, State.csrRead]
  cases csrAt offset with
  | none => rfl
  | some r => cases r <;> rfl

/-- After RESET every CSR index reads as in the instance's reset state (10 R36). -/
theorem State.afterReset_csrRead (s : State) (offset : Half) :
    s.afterReset.csrRead offset = (State.resetOf s.params).csrRead offset := by
  rw [State.afterReset_eq, State.csrRead_with_resets_env]

/-- Settles O3: the state after RESET field by field, and the two STATUS registers as in the instance's reset state. -/
theorem resetEventRestoresEveryRegister : Obligations.ResetEventRestoresEveryRegister := by
  unfold Obligations.ResetEventRestoresEveryRegister
  intro s
  have status {offset : Half} (h : offset ≠ 4) : s.afterReset.csrRead offset = 0 :=
    (s.afterReset_csrRead offset).trans (csrRead_resetOf s.params h)
  exact ⟨s.afterReset, rfl, s.afterReset_dec, s.afterReset_enc, s.afterReset_encLen, s.afterReset_decCap,
    s.afterReset_errf, status (by decide), status (by decide), rfl, fun a => ⟨rfl, rfl, rfl⟩, s.afterReset_params,
    s.afterReset_env⟩

end Sys2Proof.Machine
end
